-- ==== Sys2Proof/Word.lean ====
section
/-! DEFINITION. The word types of ECBP: bytes, 32-bit registers, byte strings (00_scope.md R10, R11). -/

namespace Sys2Proof

/-- One byte of a byte string (00_scope.md R11). -/
abbrev Byte := BitVec 8

/-- One 32-bit register, bit 0 the least significant (00_scope.md R10). -/
abbrev Word := BitVec 32

/-- A byte string `X[0..n-1]` (00_scope.md R11). -/
abbrev Bytes := List Byte

/-- `zext_32(v)` (00_scope.md R10). -/
def zext32 {n : Nat} (v : BitVec n) : Word := v.setWidth 32

end Sys2Proof
end

