-- ==== Sys2Proof/Config.lean ====
section
/-! DEFINITION. The constants of ECBP and its platform: what the document leaves to the implementation
(00_scope.md R6, R7; 92_eei_decisions.md O1 to O5). -/

namespace Sys2Proof

namespace Config

/-- NLANG: the number of wordlist ROMs (00_scope.md R7). -/
abbrev nLang : Nat := 7

/-- NWORDS: entries of one wordlist (00_scope.md R6). -/
abbrev nWords : Nat := 2048

/-- WBITS: bits of one word index (00_scope.md R6). -/
abbrev wBits : Nat := 11

/-- ITER_TOTAL: HMAC512 calls of one derivation (00_scope.md R6). -/
abbrev iterTotal : Nat := 2048

/-- ENT_LENS: the valid entropy lengths in bytes (00_scope.md R6). -/
def entLens : List Nat := [16, 20, 24, 28, 32]

/-- ENT_CAP: bytes of the ENT buffer, the greatest valid entropy length (00_scope.md R7). -/
@[simp] abbrev entCap : Nat := 32

/-- IDX_CAP: entries of the IDX buffer (00_scope.md R7). -/
@[simp] abbrev idxCap : Nat := 24

/-- MNEM_CAP: bytes of the MNEM buffer (00_scope.md R7). -/
@[simp] abbrev mnemCap : Nat := 1024

/-- PASS_CAP: bytes of the PASS buffer (00_scope.md R7). -/
@[simp] abbrev passCap : Nat := 256

/-- WORD_MAX: the longest word of a ROM in bytes (00_scope.md R7). -/
abbrev wordMax : Nat := 31

/-- The value of the ID register: "ECB" and revision 1 (10_state.md R22). -/
def idWord : Word := 0x45434201

/-- SEP: the byte written between words by encode (00_scope.md R6). -/
def sep : Byte := 0x20

/-- WS: the bytes that separate words on decode (00_scope.md R7). -/
def ws : Bytes := [0x09, 0x0A, 0x0B, 0x0C, 0x0D, 0x20]

/-- SALT_PREFIX: ASCII "mnemonic" (00_scope.md R6). -/
def saltPrefix : Bytes := [0x6D, 0x6E, 0x65, 0x6D, 0x6F, 0x6E, 0x69, 0x63]

/-- The block index 1, most significant byte first (44_seed.md R182). -/
def blockCounter : Bytes := [0x00, 0x00, 0x00, 0x01]

/-- LANGCODE[0..6]: en, es, fr, it, jp, zhs, zht (00_scope.md R7). -/
def langCodes : List Bytes :=
  [[0x65, 0x6E], [0x65, 0x73], [0x66, 0x72], [0x69, 0x74], [0x6A, 0x70], [0x7A, 0x68, 0x73], [0x7A, 0x68, 0x74]]

end Config

/-- A language id, 0 to NLANG-1; 0 is English (00_scope.md R7). -/
abbrev LangId := Fin 7

/-- Conditions (c) and (d) of 20_memory.md R74 on one ROM entry: 1 to WORD_MAX bytes, none of them in WS. -/
def romEntryOk (w : Bytes) : Bool :=
  decide (1 ≤ w.length) && decide (w.length ≤ Config.wordMax) && w.all (fun b => !Config.ws.contains b)

/-- One ROM entry with the proof that it meets 20_memory.md R74 (c) and (d): a ROM that breaks them is refused
(93_implementation_defined.md U3). The default only shows that the type is inhabited; it is no word of any ROM. -/
structure RomWord where
  bytes : Bytes := [0x61]
  ok : romEntryOk bytes = true := by decide
  deriving DecidableEq, Repr, Inhabited

/-- What a platform supplies to ECBP (00_scope.md R7, 70_reset_and_hazards.md R243). Not state: nothing changes it. -/
structure Platform where
  /-- ROM_BITS[l], 0 to 31 (20_memory.md R73). -/
  romBits : LangId → BitVec 5
  /-- ROM[l][i] for 0 <= i <= 2047 (20_memory.md R73, R74 (a)). -/
  rom : LangId → Fin 2048 → RomWord
  /-- The answer of the SHA256 port (20_memory.md R76). -/
  sha256 : Bytes → Vector Byte 32
  /-- The answer of the HMAC512 port to a key and a message (20_memory.md R77). -/
  hmac512 : Bytes → Bytes → Vector Byte 64

namespace Config

/-- SHA256, a parameter of the model (92_eei_decisions.md O2; assumption log 6). -/
opaque sha256 : Bytes → Vector Byte 32

/-- HMAC512, a parameter of the model (92_eei_decisions.md O3; assumption log 6). -/
opaque hmac512 : Bytes → Bytes → Vector Byte 64

/-- The ROM contents the source does not give (92_eei_decisions.md O1; assumption log 7). -/
opaque romRest : LangId → Fin 2048 → RomWord

/-- ROM[0][0], "abandon" (40_wordlist_rom.md R113). -/
def wordAbandon : RomWord := ⟨[0x61, 0x62, 0x61, 0x6E, 0x64, 0x6F, 0x6E], by decide⟩

/-- ROM[0][3], "about" (40_wordlist_rom.md R113). -/
def wordAbout : RomWord := ⟨[0x61, 0x62, 0x6F, 0x75, 0x74], by decide⟩

/-- The ROM: the two entries the source fixes, and any words elsewhere (40_wordlist_rom.md R113). -/
def rom (l : LangId) (i : Fin 2048) : RomWord :=
  if l = 0 ∧ i = 0 then wordAbandon else if l = 0 ∧ i = 3 then wordAbout else romRest l i

/-- ROM_BITS[l] = 11 for every l (00_scope.md R7; assumption log 8). -/
def romBits (_ : LangId) : BitVec 5 := 11

/-- The platform of this hardware. -/
def platform : Platform := ⟨romBits, rom, sha256, hmac512⟩

/-- Which 2048-byte block of the host's address space ECBP stands in (20_memory.md R63; assumption log 13). -/
opaque baseBlock : Nat

/-- BASE, a multiple of 2048 (20_memory.md R63). -/
def base : Nat := 2048 * baseBlock

end Config

end Sys2Proof
end

