-- ==== Sys2Proof/Machine/Bits.lean ====
section
/-! DEFINITION. Byte strings as fixed-size buffers and as bit streams (00_scope.md R11, 20_memory.md R66). -/

namespace Sys2Proof.Machine

/-- The first `n` elements of `xs`, padded with `z`: how a command writes a whole buffer, data and then zeros to the
end (70_reset_and_hazards.md R248 (b)). -/
def padVec {α : Type} (n : Nat) (z : α) (xs : List α) : Vector α n :=
  ⟨⟨(xs ++ List.replicate n z).take n⟩, by simp⟩

/-- A byte buffer that holds `xs` and then zeros. -/
def bytesVec (n : Nat) (xs : Bytes) : Vector Byte n := padVec n 0 xs

/-- The IDX buffer that holds the indices `xs` and then zeros (10_state.md R44). -/
def idxVec (xs : List Nat) : Vector Word Config.idxCap := padVec Config.idxCap 0 (xs.map (BitVec.ofNat 32))

/-- Bytewise exclusive or of two 64-byte registers (44_seed.md R183). -/
def xorVec (a b : Vector Byte 64) : Vector Byte 64 :=
  ⟨⟨List.zipWith (fun x y => x ^^^ y) a.toList b.toList⟩, by simp⟩

/-- The word at lanes `4w` to `4w+3` of a buffer: the byte with the lowest index in bits 7:0 (20_memory.md R66). -/
def wordAt {n : Nat} (buf : Vector Byte n) (w : Nat) : Word :=
  buf[4 * w + 3]?.getD 0 ++ buf[4 * w + 2]?.getD 0 ++ buf[4 * w + 1]?.getD 0 ++ buf[4 * w]?.getD 0

/-- Lane `j` of a word: bits `8j+7:8j` (20_memory.md R66). -/
def lane (v : Word) (j : Nat) : Byte := v.extractLsb' (8 * j) 8

/-- `BUF[4w+j] <- v[8j+7:8j]` for `j = 0..3` (20_memory.md R66). -/
def setWordAt {n : Nat} (buf : Vector Byte n) (w : Nat) (v : Word) : Vector Byte n :=
  (((buf.setIfInBounds (4 * w) (lane v 0)).setIfInBounds (4 * w + 1) (lane v 1)).setIfInBounds
    (4 * w + 2) (lane v 2)).setIfInBounds (4 * w + 3) (lane v 3)

/-- The number whose `n` bits, most significant first, are `f 0, ..., f (n-1)`. -/
def msbNat (f : Nat → Nat) : Nat → Nat
  | 0 => 0
  | n + 1 => 2 * msbNat f n + f n

/-- Bit `j` of the stream of a byte string, most significant bit of each byte first (00_scope.md R11). -/
def bit (x : Bytes) (j : Nat) : Nat := ((x[j / 8]?.getD 0).toNat / 2 ^ (7 - j % 8)) % 2

/-- `group(X, i)`: eleven consecutive bits as a number (42_bitpacker.md R142). -/
def group (x : Bytes) (i : Nat) : Nat := msbNat (fun k => bit x (11 * i + k)) 11

/-- `B(j)`: bit `j` of the stream of an index list, eleven bits an index, top bit first (42_bitpacker.md R144). -/
def streamBit (xs : List Nat) (j : Nat) : Nat := ((xs[j / 11]?.getD 0) / 2 ^ (10 - j % 11)) % 2

end Sys2Proof.Machine
end

