-- ==== Sys2Proof/Syntax.lean ====
section
/-! DEFINITION. The nine commands of ECBP, one constructor per row of the opcode table (30_encoding.md R91).
No command has an operand (30_encoding.md R93). -/

namespace Sys2Proof

/-- A command: the analog of an instruction (00_scope.md R2). -/
inductive Instr where
  /-- 43_codec.md R160 -/
  | encode
  /-- 43_codec.md R163 -/
  | decode
  /-- 43_codec.md R166 -/
  | check
  /-- 44_seed.md R183 -/
  | derive
  /-- 42_bitpacker.md R143 -/
  | pack
  /-- 42_bitpacker.md R146 -/
  | unpack
  /-- 40_wordlist_rom.md R116 -/
  | lookup
  /-- 40_wordlist_rom.md R118 -/
  | search
  /-- 45_housekeeping.md R200 -/
  | clear
  deriving DecidableEq, Repr

/-- All nine commands, in opcode order (30_encoding.md R91). -/
def Instr.all : List Instr :=
  [.encode, .decode, .check, .derive, .pack, .unpack, .lookup, .search, .clear]

end Sys2Proof
end

