-- ==== Sys2Proof/WellFormed.lean ====
section
/-! DEFINITION. What is well formed: commands (all of them: no operands, 30_encoding.md R93), command words
(30_encoding.md R90, R94) and the host's bus accesses (20_memory.md R61, R62). -/

namespace Sys2Proof

/-- Every command is well formed: it has no operand field that could be out of range (30_encoding.md R93). -/
def Instr.wf : Instr → Bool
  | .encode | .decode | .check | .derive | .pack | .unpack | .lookup | .search | .clear => true

/-- Bits 31:8 of a command word must be zero (30_encoding.md R90, field MBZ). -/
def mbzOk (v : Word) : Bool := v.extractLsb' 8 24 == 0#24

/-- Bits 7:0 of a command word hold one of the nine opcodes (30_encoding.md R91, field OPC). -/
def opcOk (v : Word) : Bool :=
  let opc := (v.extractLsb' 0 8).toNat
  decide (1 ≤ opc) && decide (opc ≤ 9)

/-- A word that selects a command; every other word is illegal (30_encoding.md R94). -/
def commandWordWf (v : Word) : Bool := mbzOk v && opcOk v

/-- A host access: a byte offset in the block and a number of bytes (20_memory.md R61: `MemRead(addr, 4)`). -/
structure Access where
  addr : Nat
  bytes : Nat := 4
  deriving DecidableEq, Repr

/-- 32 bits is the only access width (20_memory.md R61). -/
def Access.widthOk (a : Access) : Bool := a.bytes == 4

/-- The offset is a multiple of 4 (20_memory.md R61, R62). -/
def Access.alignOk (a : Access) : Bool := a.addr % 4 == 0

/-- The offset lies in the 2048-byte block (20_memory.md R60, R61). -/
def Access.rangeOk (a : Access) : Bool := decide (a.addr < 2048)

/-- The accesses the bus can express; a model refuses every other (20_memory.md R62, 93_implementation_defined.md U6). -/
def Access.wf (a : Access) : Bool := a.widthOk && a.alignOk && a.rangeOk

end Sys2Proof
end

