-- ==== Sys2Proof/Decode.lean ====
section
/-! DEFINITION. The command decoder, total on 32-bit words (30_encoding.md R92), and after it the encoder, written
from the opcode map of 30_encoding.md R91. -/

namespace Sys2Proof

/-- Why a word is no command (30_encoding.md R92, R94). Either way the command fails with IllegalCommand
(45_housekeeping.md R202). -/
inductive DecodeError where
  /-- A bit of 31:8 is not zero. -/
  | mbzNotZero
  /-- Bits 7:0 are outside 0x01..0x09. -/
  | opcodeUnknown
  deriving DecidableEq, Repr

/-- The command an opcode selects (30_encoding.md R91). -/
def instrOfOpcode : Nat → Option Instr
  | 0x01 => some .encode
  | 0x02 => some .decode
  | 0x03 => some .check
  | 0x04 => some .derive
  | 0x05 => some .pack
  | 0x06 => some .unpack
  | 0x07 => some .lookup
  | 0x08 => some .search
  | 0x09 => some .clear
  | _ => none

/-- `decode(v)` (30_encoding.md R92). -/
def decode (v : Word) : Except DecodeError Instr :=
  if v.extractLsb' 8 24 ≠ 0#24 then .error .mbzNotZero
  else
    match instrOfOpcode (v.extractLsb' 0 8).toNat with
    | some i => .ok i
    | none => .error .opcodeUnknown

/-- The command a word selects, none for an illegal word. -/
def commandOf (v : Word) : Option Instr := (decode v).toOption

/-- The column OPC of 30_encoding.md R91. -/
def opcode : Instr → Byte
  | .encode => 0x01
  | .decode => 0x02
  | .check => 0x03
  | .derive => 0x04
  | .pack => 0x05
  | .unpack => 0x06
  | .lookup => 0x07
  | .search => 0x08
  | .clear => 0x09

/-- The one word of a command: OPC in bits 7:0, zero above (30_encoding.md R90, R91). -/
def encode (i : Instr) : Word := 0#24 ++ opcode i

/-- One row of the opcode map: a word `v` selects the row when `v and mask = match` (30_encoding.md R91). -/
structure OpcodeRow where
  mask : Word
  pattern : Word
  command : Instr
  deriving DecidableEq, Repr

/-- The opcode map of 30_encoding.md R91, read row by row. -/
def opcodeMap : List OpcodeRow :=
  [⟨0xFFFFFFFF, 0x00000001, .encode⟩, ⟨0xFFFFFFFF, 0x00000002, .decode⟩, ⟨0xFFFFFFFF, 0x00000003, .check⟩,
   ⟨0xFFFFFFFF, 0x00000004, .derive⟩, ⟨0xFFFFFFFF, 0x00000005, .pack⟩, ⟨0xFFFFFFFF, 0x00000006, .unpack⟩,
   ⟨0xFFFFFFFF, 0x00000007, .lookup⟩, ⟨0xFFFFFFFF, 0x00000008, .search⟩, ⟨0xFFFFFFFF, 0x00000009, .clear⟩]

/-- `v` selects the row (30_encoding.md R91). -/
def OpcodeRow.selects (r : OpcodeRow) (v : Word) : Bool := v &&& r.mask == r.pattern

/-- The decoder's answer on a table word: a command is one 32-bit word (30_encoding.md R90), and the bits above
`nbits` are zero. -/
def decodeTableWord (nbits w : Nat) : Option Instr :=
  let v := w % 2 ^ nbits
  if v < 2 ^ 32 then commandOf (BitVec.ofNat 32 v) else none

end Sys2Proof
end

