-- ==== Sys2Proof/Machine/State.lean ====
section
/-! DEFINITION. The state of ECBP as plain data (10_state.md R20 to R49), the reset state (R54), and the reasons a
step can stop. -/

namespace Sys2Proof.Machine

/-- PHASE (10_state.md R48, R49). -/
inductive Phase where
  | idle
  | busy
  deriving DecidableEq, Repr

/-- The eight error kinds (60_exceptions.md R210); code 0, no error, is the absent kind. -/
inductive ErrorKind where
  | invalidWordlist
  | invalidEntropyLength
  | invalidWord
  | invalidMnemonicLength
  | checksumMismatch
  | illegalCommand
  | badLength
  | badIndex
  deriving DecidableEq, Repr

/-- `raise E(info)` (00_scope.md R12): an error kind and its information word (60_exceptions.md R211). -/
structure Raise where
  kind : ErrorKind
  info : Word
  deriving DecidableEq, Repr

/-- The set of register and buffer values a command commits; an absent value is not written
(00_scope.md R13, 10_state.md R52, R53). -/
structure Writes where
  ent : Option (Vector Byte Config.entCap) := none
  entLen : Option Word := none
  idx : Option (Vector Word Config.idxCap) := none
  wordCnt : Option Word := none
  mnem : Option (Vector Byte Config.mnemCap) := none
  mnemLen : Option Word := none
  pass : Option (Vector Byte Config.passCap) := none
  passLen : Option Word := none
  seed : Option (Vector Byte 64) := none
  valid : Option Bool := none
  deriving DecidableEq, Repr

/-- PEND (10_state.md R48, R50): zero, the outcome of the command in flight (00_scope.md R13), or
"DERIVE running". -/
inductive Pend where
  | none
  | ok (w : Writes)
  | fail (r : Raise)
  | derive
  deriving DecidableEq, Repr

/-- The hidden working storage of a command body (10_state.md R48; assumption log 4). The empty string is the
cleared buffer. -/
structure Work where
  /-- working buffer W: entropy ++ checksum byte (41_checksum.md R134) -/
  w : Bytes := []
  /-- what is kept of the SHA256 answer, its byte 0; bytes 1 to 31 are discarded (41_checksum.md R130,
  20_memory.md R76) -/
  digest : Bytes := []
  /-- the last token looked up (40_wordlist_rom.md R118) -/
  token : Bytes := []
  /-- the salt and the block counter (44_seed.md R181, R182) -/
  salt : Bytes := []
  deriving DecidableEq, Repr

/-- One thing the outside world does next (00_scope.md R8, 20_memory.md R71; assumption log 1). -/
inductive Event where
  /-- HostRead (20_memory.md R61) -/
  | read (a : Access)
  /-- HostWrite (20_memory.md R61) -/
  | write (a : Access) (v : Word)
  /-- the engine takes its enabled step, if any (10_state.md R51, R52) -/
  | engine
  /-- the reset input (70_reset_and_hazards.md R240) -/
  | reset
  /-- the SHA256 and the HMAC512 unit answer, or do not, from now on (20_memory.md R78; assumption log 6) -/
  | units (sha hmac : Bool)
  deriving DecidableEq, Repr

/-- The state of ECBP (10_state.md R20), and four fields of the model's own at the end. -/
structure State where
  /-- PHASE (10_state.md R49) -/
  phase : Phase
  /-- CMDW (10_state.md R48) -/
  cmdw : Word
  /-- PEND (10_state.md R48) -/
  pend : Pend
  /-- U (44_seed.md R184) -/
  u : Vector Byte 64
  /-- T (44_seed.md R184) -/
  t : Vector Byte 64
  /-- hidden working storage (10_state.md R48) -/
  work : Work
  /-- the request outstanding on the SHA256 port (20_memory.md R76; assumption log 16) -/
  shaReq : Option Bytes
  /-- STATUS.DONE (10_state.md R26) -/
  done : Bool
  /-- STATUS.VALID (10_state.md R27) -/
  valid : Bool
  /-- STATUS.HAZ (10_state.md R28) -/
  haz : Bool
  /-- STATUS.ERR (10_state.md R29); absent is code 0 (assumption log 19) -/
  err : Option ErrorKind
  /-- STATUS.OP (10_state.md R30) -/
  op : Byte
  /-- CTRL.IE (10_state.md R31) -/
  ie : Bool
  /-- LANG (10_state.md R32) -/
  lang : Word
  /-- ENT_LEN (10_state.md R36) -/
  entLen : Word
  /-- WORD_CNT (10_state.md R38) -/
  wordCnt : Word
  /-- MNEM_LEN (10_state.md R39) -/
  mnemLen : Word
  /-- PASS_LEN (10_state.md R40) -/
  passLen : Word
  /-- ITER bits 11:0 (10_state.md R41; assumption log 19) -/
  iter : BitVec 12
  /-- ERR_INFO (10_state.md R42) -/
  errInfo : Word
  /-- ENT (10_state.md R43; the buffers: assumption log 15) -/
  ent : Vector Byte Config.entCap
  /-- IDX (10_state.md R44) -/
  idx : Vector Word Config.idxCap
  /-- SEED (10_state.md R45) -/
  seed : Vector Byte 64
  /-- PASS (10_state.md R46) -/
  pass : Vector Byte Config.passCap
  /-- MNEM (10_state.md R47) -/
  mnem : Vector Byte Config.mnemCap
  /-- the model's own: the value the last HostRead returned (assumption log 5) -/
  rdata : Option Word
  /-- the model's own: the SHA256 unit answers (assumption log 6) -/
  shaUp : Bool
  /-- the model's own: the HMAC512 unit answers (assumption log 6) -/
  hmacUp : Bool
  /-- the model's own: the coming events, oldest first (assumption log 1) -/
  inputs : List Event
  deriving DecidableEq, Repr

/-- The state after reset (10_state.md R54). The four last fields are the model's own (assumption log 1, 5, 6). -/
def State.reset : State where
  phase := .idle
  cmdw := 0
  pend := .none
  u := Vector.replicate 64 0
  t := Vector.replicate 64 0
  work := {}
  shaReq := none
  done := false
  valid := false
  haz := false
  err := none
  op := 0
  ie := false
  lang := 0
  entLen := 0
  wordCnt := 0
  mnemLen := 0
  passLen := 0
  iter := 0
  errInfo := 0
  ent := Vector.replicate Config.entCap 0
  idx := Vector.replicate Config.idxCap 0
  seed := Vector.replicate 64 0
  pass := Vector.replicate Config.passCap 0
  mnem := Vector.replicate Config.mnemCap 0
  rdata := none
  shaUp := true
  hmacUp := true
  inputs := []

/-- ECBP has no fault: every error is a command that completes with STATUS.ERR, and no access gets a bus error
(60_exceptions.md R217). Nothing raises one; safe, since no step stops here. -/
inductive Fault where
  deriving DecidableEq, Repr

/-- Why a step has no meaning. -/
inductive Refusal where
  /-- Raised by exec for a command the model gives no meaning, named by its mnemonic. Safe: the step stops. No arm
  raises it. -/
  | notModelled (mnemonic : String)
  /-- Raised by step for a host access the bus cannot express: not 32 bits wide, misaligned or outside the block
  (20_memory.md R62, 93_implementation_defined.md U6: "refuse"). Safe: the step stops. -/
  | busAccess (a : Access)
  deriving DecidableEq, Repr

/-- What a step answers. -/
abbrev Res := Host.Outcome State Fault Refusal

end Sys2Proof.Machine
end

