-- ==== Sys2Proof/Machine/Operands.lean ====
section
/-! DEFINITION. The operands of the commands: the registers and buffers of 10_state.md R53, read implicitly
(30_encoding.md R93), the language resolution (40_wordlist_rom.md R110) and the tokens (R117). -/

namespace Sys2Proof.Machine

/-- `pack(code)`: the packed language code, first byte in bits 7:0, missing bytes zero (30_encoding.md R96). A string of
more than four bytes has no packed form there; of such a string this takes the first four bytes (DESIGN CHOICE,
assumption log 20). -/
def packCode (code : Bytes) : Word :=
  code[3]?.getD 0 ++ code[2]?.getD 0 ++ code[1]?.getD 0 ++ code[0]?.getD 0

/-- LANG_TAB[l] (10_state.md R35): the packed code for `l < NLANG`, 0 above. -/
def langTabWord (l : Nat) : Word := (Config.langCodes[l]?.map packCode).getD 0

/-- The language id whose packed code is `x`, if there is one (40_wordlist_rom.md R110). -/
def matchLang (x : Word) : Option LangId :=
  [0, 1, 2, 3, 4, 5, 6].find? (fun l : LangId => langTabWord l.val == x)

/-- `resolve(x).LID`: the matching language, else English (40_wordlist_rom.md R110). -/
def resolveLid (x : Word) : LangId := (matchLang x).getD 0

/-- `resolve(x).MATCH` (40_wordlist_rom.md R110). -/
def resolveMatch (x : Word) : Bool := (matchLang x).isSome

/-- The language a command uses: LANG at its accept step (40_wordlist_rom.md R111). -/
def lid (s : State) : LangId := resolveLid s.lang

/-- ENT[0..L-1] with L = ENT_LEN (10_state.md R43). -/
def entropy (s : State) : Bytes := s.ent.toList.take s.entLen.toNat

/-- MNEM[0..MNEM_LEN-1] (10_state.md R47). -/
def mnemonic (s : State) : Bytes := s.mnem.toList.take s.mnemLen.toNat

/-- PASS[0..PASS_LEN-1] (10_state.md R46). -/
def passphrase (s : State) : Bytes := s.pass.toList.take s.passLen.toNat

/-- IDX[0..WORD_CNT-1] as numbers (10_state.md R44). -/
def indices (s : State) : List Nat := (s.idx.toList.take s.wordCnt.toNat).map BitVec.toNat

/-- The smallest position of an index of 2048 or more (60_exceptions.md R211, BadIndex). -/
def firstBadIndex (xs : List Nat) : Option Nat := xs.findIdx? (fun x => decide (Config.nWords ≤ x))

/-- `b` is one of the six bytes of WS (00_scope.md R7). -/
def isWs (b : Byte) : Bool := Config.ws.contains b

/-- `tokens(X)` of the rest of a string, with `cur` the token being read, empty between tokens
(40_wordlist_rom.md R117). -/
def tokensFrom (cur : Bytes) : Bytes → List Bytes
  | [] => if cur = [] then [] else [cur]
  | b :: rest =>
    if isWs b then
      if cur = [] then tokensFrom [] rest else cur :: tokensFrom [] rest
    else tokensFrom (cur ++ [b]) rest

/-- `tokens(X)`: the maximal runs of bytes outside WS, in order (40_wordlist_rom.md R117). -/
def tokens (x : Bytes) : List Bytes := tokensFrom [] x

/-- `P`: the mnemonic string as it stands (44_seed.md R180). -/
def password (s : State) : Bytes := mnemonic s

/-- `S`: the bytes of "mnemonic" and then the passphrase (44_seed.md R181). -/
def salt (s : State) : Bytes := Config.saltPrefix ++ passphrase s

/-- `M1`: the salt and then the block counter (44_seed.md R182). -/
def firstMessage (s : State) : Bytes := salt s ++ Config.blockCounter

end Sys2Proof.Machine
end

