-- ==== Sys2Proof/Machine/Flags.lean ====
section
/-! DEFINITION. STATUS and its fields (10_state.md R24 to R30), the error codes (60_exceptions.md R210), the derived
read-only registers (10_state.md R33 to R37) and the interrupt level (60_exceptions.md R220). -/

namespace Sys2Proof.Machine

/-- The code of an error kind (60_exceptions.md R210). -/
def errorCode : ErrorKind → BitVec 4
  | .invalidWordlist => 1
  | .invalidEntropyLength => 2
  | .invalidWord => 3
  | .invalidMnemonicLength => 4
  | .checksumMismatch => 5
  | .illegalCommand => 6
  | .badLength => 7
  | .badIndex => 8

/-- STATUS.ERR (10_state.md R29): code 0 when there is no error. -/
def errCode (s : State) : BitVec 4 := (s.err.map errorCode).getD 0

/-- STATUS.BUSY (10_state.md R25): 1 exactly when PHASE = BUSY. -/
def busy (s : State) : Bool := s.phase == .busy

/-- STATUS as the host reads it (10_state.md R24): OP, ERR, HAZ, VALID, DONE, BUSY from bit 15 down. -/
def statusWord (s : State) : Word :=
  0#16 ++ s.op ++ errCode s ++ BitVec.ofBool s.haz ++ BitVec.ofBool s.valid ++ BitVec.ofBool s.done ++
    BitVec.ofBool (busy s)

/-- A host write to STATUS clears DONE and HAZ where the written bit is 1 and does nothing else, in any phase
(10_state.md R21, R24). -/
def writeStatus (s : State) (v : Word) : State :=
  { s with done := s.done && !v.getLsbD 1, haz := s.haz && !v.getLsbD 3 }

/-- CTRL as the host reads it (10_state.md R31). -/
def ctrlWord (s : State) : Word := zext32 (BitVec.ofBool s.ie)

/-- A host write to CTRL stores bit 0 only (10_state.md R31). -/
def writeCtrl (s : State) (v : Word) : State := { s with ie := v.getLsbD 0 }

/-- LANG_ID (10_state.md R33): LID in bits 2:0, MATCH in bit 8. -/
def langIdWord (s : State) : Word :=
  0#23 ++ BitVec.ofBool (resolveMatch s.lang) ++ 0#5 ++ BitVec.ofNat 3 (resolveLid s.lang).val

/-- WL_BITS (10_state.md R34): ROM_BITS of the resolved language. -/
def wlBitsWord (p : Platform) (s : State) : Word := zext32 (p.romBits (lid s))

/-- `validlen(L)` (41_checksum.md R131). -/
def validLen (len : Nat) : Bool := Config.entLens.contains len

/-- `CS(L)`, the document's maskFor: `L div 4` for a valid length (41_checksum.md R132). -/
def csWidth (len : Nat) : Nat := len / 4

/-- CS_BITS (10_state.md R37): `CS(ENT_LEN)`, or 0 for an invalid length. -/
def csBitsWord (s : State) : Word :=
  if validLen s.entLen.toNat then BitVec.ofNat 32 (csWidth s.entLen.toNat) else 0

/-- ITER as the host reads it (10_state.md R41). -/
def iterWord (s : State) : Word := zext32 s.iter

/-- `irq = STATUS.DONE and CTRL.IE` (60_exceptions.md R220). -/
def irq (s : State) : Bool := s.done && s.ie

end Sys2Proof.Machine
end

