-- ==== Sys2Proof/Machine/Ops.lean ====
section
/-! DEFINITION. The shared operations of the engine: accept (10_state.md R50), complete with success or failure
(R52, 60_exceptions.md R214), and what reset does (70_reset_and_hazards.md R240). -/

namespace Sys2Proof.Machine

/-- ENT all zero. -/
def zeroEnt : Vector Byte Config.entCap := Vector.replicate Config.entCap 0

/-- IDX all zero. -/
def zeroIdx : Vector Word Config.idxCap := Vector.replicate Config.idxCap 0

/-- SEED, U and T all zero. -/
def zeroSeed : Vector Byte 64 := Vector.replicate 64 0

/-- PASS all zero. -/
def zeroPass : Vector Byte Config.passCap := Vector.replicate Config.passCap 0

/-- MNEM all zero. -/
def zeroMnem : Vector Byte Config.mnemCap := Vector.replicate Config.mnemCap 0

/-- Commit every value in the set (10_state.md R52). -/
def commit (s : State) (w : Writes) : State :=
  { s with
    ent := w.ent.getD s.ent
    entLen := w.entLen.getD s.entLen
    idx := w.idx.getD s.idx
    wordCnt := w.wordCnt.getD s.wordCnt
    mnem := w.mnem.getD s.mnem
    mnemLen := w.mnemLen.getD s.mnemLen
    pass := w.pass.getD s.pass
    passLen := w.passLen.getD s.passLen
    seed := w.seed.getD s.seed
    valid := w.valid.getD s.valid }

/-- `out(op)` with every output at zero: what a failing command writes (10_state.md R52, R53). -/
def zeroOutputs : Instr → Writes
  | .encode => { idx := some zeroIdx, wordCnt := some 0, mnem := some zeroMnem, mnemLen := some 0 }
  | .decode => { idx := some zeroIdx, wordCnt := some 0, ent := some zeroEnt, entLen := some 0 }
  | .check => { valid := some false }
  | .derive => { seed := some zeroSeed }
  | .pack => { idx := some zeroIdx, wordCnt := some 0 }
  | .unpack => { ent := some zeroEnt, entLen := some 0 }
  | .lookup => { mnem := some zeroMnem, mnemLen := some 0 }
  | .search => { idx := some zeroIdx, wordCnt := some 0 }
  | .clear =>
    { ent := some zeroEnt, entLen := some 0, idx := some zeroIdx, wordCnt := some 0, mnem := some zeroMnem,
      mnemLen := some 0, pass := some zeroPass, passLen := some 0, seed := some zeroSeed }

/-- The zeroed outputs of the command word in flight. An illegal word has no output (45_housekeeping.md R202), so the
whole word decides, not STATUS.OP alone (assumption log 10). -/
def zeroOutputsOf (cmdw : Word) : Writes :=
  match commandOf cmdw with
  | some i => zeroOutputs i
  | none => {}

/-- CMDW, PEND, U, T, the outstanding request and all working storage become zero (10_state.md R48, R52,
70_reset_and_hazards.md R241). -/
def clearHidden (s : State) : State :=
  { s with cmdw := 0, pend := .none, u := zeroSeed, t := zeroSeed, work := {}, shaReq := none }

/-- The end of every complete step: hidden state cleared, DONE set, PHASE idle (10_state.md R52). -/
def finish (s : State) : State := { clearHidden s with done := true, phase := .idle }

/-- The complete step on success: commit the writes, ERR and ERR_INFO zero (10_state.md R52). -/
def completeOk (s : State) (w : Writes) : State := finish { commit s w with err := none, errInfo := 0 }

/-- The complete step on failure, the analog of taking an exception (60_exceptions.md R214): every output of the
command to zero, ERR and ERR_INFO written. There is no return from it (60_exceptions.md R215). -/
def completeFail (s : State) (r : Raise) : State :=
  finish { commit s (zeroOutputsOf s.cmdw) with err := some r.kind, errInfo := r.info }

/-- The complete step (10_state.md R52) of the outcome in PEND; "DERIVE running" commits `SEED <- T`
(44_seed.md R184). With no outcome there is nothing to complete (assumption log 11). -/
def complete (s : State) : State :=
  match s.pend with
  | .none => s
  | .ok w => completeOk s w
  | .fail r => completeFail s r
  | .derive => completeOk s { seed := some s.t }

/-- The outcome of a body as PEND (00_scope.md R13). -/
def Pend.ofBody : Except Raise Writes → Pend
  | .ok w => .ok w
  | .error r => .fail r

/-- The working storage a body leaves that sent the request `m` to the SHA256 port: byte 0 of the answer, and W, the
entropy and that byte; bytes 1 to 31 of the answer are discarded (41_checksum.md R130, R134, 20_memory.md R76). -/
def Work.ofRequest (p : Platform) : Option Bytes → Work
  | none => {}
  | some m => { w := m ++ [(p.sha256 m)[0]], digest := [(p.sha256 m)[0]] }

/-- What the accept step of a command puts into hidden state beside CMDW (10_state.md R48, R50). -/
structure Launch where
  pend : Pend
  shaReq : Option Bytes := none
  work : Work := {}
  deriving DecidableEq, Repr

/-- The accept step (10_state.md R50), with the outcome of the body already evaluated (assumption log 3). -/
def accept (s : State) (v : Word) (l : Launch) : State :=
  { s with
    cmdw := v
    op := v.extractLsb' 0 8
    done := false
    valid := false
    err := none
    errInfo := 0
    iter := 0
    pend := l.pend
    shaReq := l.shaReq
    work := l.work
    phase := .busy }

/-- A host write that PHASE = BUSY drops: HAZ is set and nothing else changes (70_reset_and_hazards.md R246). -/
def dropWrite (s : State) : State := { s with haz := true }

/-- A write to CMD of the word `v` (10_state.md R23): the accept step while IDLE, a dropped write while BUSY. -/
def issue (s : State) (v : Word) (l : Launch) : State :=
  if busy s then dropWrite s else accept s v l

/-- Reset: every piece of ECBP's state at the value of 10_state.md R54 (70_reset_and_hazards.md R240, R241). What is
outside the block stays: the coming events and whether the units answer (assumption log 14). -/
def resetBlock (s : State) : State :=
  { State.reset with shaUp := s.shaUp, hmacUp := s.hmacUp, inputs := s.inputs }

end Sys2Proof.Machine
end

