-- ==== Sys2Proof/Machine/Bus.lean ====
section
/-! DEFINITION. The host's register space: the address map (20_memory.md R65), host reads (R66, R69,
70_reset_and_hazards.md R247) and host writes (70_reset_and_hazards.md R246). -/

namespace Sys2Proof.Machine

/-- What stands at a word of the register space (20_memory.md R65). -/
inductive Slot where
  | id | cmd | status | ctrl | lang | langId | wlBits | nLang | entLen | csBits | wordCnt | mnemLen | passLen
  | iter | errInfo
  | ent (w : Nat) | langTab (l : Nat) | idx (i : Nat) | seed (w : Nat) | pass (w : Nat) | mnem (w : Nat)
  | reserved
  deriving DecidableEq, Repr

/-- The registers at offsets 0x000 to 0x03C (20_memory.md R65). -/
def registerSlot : Nat → Slot
  | 0x000 => .id
  | 0x004 => .cmd
  | 0x008 => .status
  | 0x00C => .ctrl
  | 0x010 => .lang
  | 0x014 => .langId
  | 0x018 => .wlBits
  | 0x01C => .nLang
  | 0x020 => .entLen
  | 0x024 => .csBits
  | 0x028 => .wordCnt
  | 0x02C => .mnemLen
  | 0x030 => .passLen
  | 0x034 => .iter
  | 0x038 => .errInfo
  | _ => .reserved

/-- The address map (20_memory.md R65) on byte offsets that are multiples of 4. -/
def slotOf (a : Nat) : Slot :=
  if a < 0x040 then registerSlot a
  else if a < 0x060 then .ent ((a - 0x040) / 4)
  else if a < 0x080 then .langTab ((a - 0x060) / 4)
  else if a < 0x0E0 then .idx ((a - 0x080) / 4)
  else if a < 0x100 then .reserved
  else if a < 0x140 then .seed ((a - 0x100) / 4)
  else if a < 0x200 then .reserved
  else if a < 0x300 then .pass ((a - 0x200) / 4)
  else if a < 0x400 then .reserved
  else if a < 0x800 then .mnem ((a - 0x400) / 4)
  else .reserved

/-- A buffer word as the host sees it: 0 while BUSY (70_reset_and_hazards.md R247). -/
def masked (s : State) (v : Word) : Word := if busy s then 0 else v

/-- The value a host read returns (20_memory.md R64, R65, R66; 10_state.md R22 to R47). -/
def readSlot (p : Platform) (s : State) : Slot → Word
  | .id => Config.idWord
  | .cmd => 0
  | .status => statusWord s
  | .ctrl => ctrlWord s
  | .lang => s.lang
  | .langId => langIdWord s
  | .wlBits => wlBitsWord p s
  | .nLang => BitVec.ofNat 32 Config.nLang
  | .entLen => s.entLen
  | .csBits => csBitsWord s
  | .wordCnt => s.wordCnt
  | .mnemLen => s.mnemLen
  | .passLen => s.passLen
  | .iter => iterWord s
  | .errInfo => s.errInfo
  | .ent w => masked s (wordAt s.ent w)
  | .langTab l => langTabWord l
  | .idx i => masked s (s.idx[i]?.getD 0)
  | .seed w => masked s (wordAt s.seed w)
  | .pass w => masked s (wordAt s.pass w)
  | .mnem w => masked s (wordAt s.mnem w)
  | .reserved => 0

/-- A write to a register or buffer that a running command protects: dropped with HAZ while BUSY
(70_reset_and_hazards.md R246). -/
def guardedWrite (s s' : State) : State := if busy s then dropWrite s else s'

/-- What a host write does at every offset but CMD (10_state.md R21 to R47, 20_memory.md R64, R66). -/
def writeSlot (s : State) (v : Word) : Slot → State
  | .status => writeStatus s v
  | .ctrl => writeCtrl s v
  | .lang => guardedWrite s { s with lang := v }
  | .entLen => guardedWrite s { s with entLen := v }
  | .wordCnt => guardedWrite s { s with wordCnt := v }
  | .mnemLen => guardedWrite s { s with mnemLen := v }
  | .passLen => guardedWrite s { s with passLen := v }
  | .ent w => guardedWrite s { s with ent := setWordAt s.ent w v }
  | .idx i => guardedWrite s { s with idx := s.idx.setIfInBounds i v }
  | .pass w => guardedWrite s { s with pass := setWordAt s.pass w v }
  | .mnem w => guardedWrite s { s with mnem := setWordAt s.mnem w v }
  | .id | .cmd | .langId | .wlBits | .nLang | .csBits | .iter | .errInfo | .langTab _ | .seed _ | .reserved => s

/-- The value a host read of an offset returns (20_memory.md R65). -/
def readAt (p : Platform) (s : State) (off : Nat) : Word := readSlot p s (slotOf off)

/-- What a host write does at an offset other than CMD's (20_memory.md R65). -/
def writeAt (s : State) (off : Nat) (v : Word) : State := writeSlot s v (slotOf off)

/-- HostRead (20_memory.md R61): the value goes to the bus, nothing of ECBP changes (R69; assumption log 5). -/
def hostRead (p : Platform) (s : State) (off : Nat) : State :=
  { s with rdata := some (readAt p s off) }

/-- A write to CMD (10_state.md R23): the decoded command's accept step, or the illegal word's
(30_encoding.md R92). -/
def writeCmd (ex : Instr → State → Res) (illegal : Word → State → Res) (s : State) (v : Word) : Res :=
  match decode v with
  | .ok i => ex i s
  | .error _ => illegal v s

/-- HostWrite (20_memory.md R61). -/
def hostWrite (ex : Instr → State → Res) (illegal : Word → State → Res) (s : State) (off : Nat) (v : Word) : Res :=
  if slotOf off = .cmd then writeCmd ex illegal s v else .next (writeAt s off v)

/-- The offset a host address reaches: the low 11 bits, for an address in the block at BASE (20_memory.md R63). -/
def blockOffset (a : Nat) : Nat := a % 2048

/-- The host address of an offset (20_memory.md R63). -/
def hostAddress (off : Nat) : Nat := Config.base + off

end Sys2Proof.Machine
end

