-- ==== Sys2Proof/Machine/Checksum.lean ====
section
/-! DEFINITION. The checksum computer: the leading digest byte and the checksum bits (41_checksum.md R130 to R134). -/

namespace Sys2Proof.Machine

/-- `SHA256(E)[0]`: ECBP keeps byte 0 of the answer (41_checksum.md R130). -/
def digestByte (p : Platform) (e : Bytes) : Byte := (p.sha256 e)[0]

/-- The top `c` bits of the leading digest byte as a number (41_checksum.md R133). -/
def checksumOf (p : Platform) (e : Bytes) (c : Nat) : Nat := (digestByte p e).toNat / 2 ^ (8 - c)

/-- `csum(E)` with `c = CS(len E)` (41_checksum.md R133). -/
def csum (p : Platform) (e : Bytes) : Nat := checksumOf p e (csWidth e.length)

/-- The working buffer W = E ++ [d] (41_checksum.md R134, 42_bitpacker.md R143). -/
def workingBuffer (p : Platform) (e : Bytes) : Bytes := e ++ [digestByte p e]

end Sys2Proof.Machine
end

