-- ==== Sys2Proof/Machine/Wordlist.lean ====
section
/-! DEFINITION. WLE, the word-index ROM lookup engine: the wordlist check, LOOKUP and SEARCH (40_wordlist_rom.md). -/

namespace Sys2Proof.Machine

/-- The first step of every command that uses a wordlist (40_wordlist_rom.md R114). -/
def checkWordlist (p : Platform) (s : State) : Except Raise LangId :=
  if (p.romBits (lid s)).toNat = Config.wBits then .ok (lid s) else .error ⟨.invalidWordlist, zext32 (p.romBits (lid s))⟩

/-- `word(l, i) = ROM[l][i]` for `0 <= i <= 2047` (40_wordlist_rom.md R115). -/
def word (p : Platform) (l : LangId) (i : Nat) : Bytes :=
  if h : i < Config.nWords then (p.rom l ⟨i, h⟩).bytes else []

/-- `find(l, w)`: the smallest index whose word equals `w` byte for byte (40_wordlist_rom.md R119). -/
def findWord (p : Platform) (l : LangId) (w : Bytes) : Option Nat :=
  (List.range' 0 Config.nWords).find? (fun i => word p l i == w)

/-- Words joined with one byte SEP between neighbours (30_encoding.md R97). -/
def joinWords : List Bytes → Bytes
  | [] => []
  | [w] => w
  | w :: rest => w ++ Config.sep :: joinWords rest

/-- The mnemonic string of an index list (40_wordlist_rom.md R116). -/
def wordString (p : Platform) (l : LangId) (xs : List Nat) : Bytes := joinWords (xs.map (word p l))

/-- The writes of a mnemonic string: the whole of MNEM, and MNEM_LEN (40_wordlist_rom.md R116). -/
def mnemonicWrites (str : Bytes) : Writes :=
  { mnem := some (bytesVec Config.mnemCap str), mnemLen := some (BitVec.ofNat 32 str.length) }

/-- The writes of an index list: the whole of IDX, and WORD_CNT, which counts all of `xs` even when IDX holds the
first 24 only (40_wordlist_rom.md R118). -/
def indexWrites (xs : List Nat) : Writes :=
  { idx := some (idxVec xs), wordCnt := some (BitVec.ofNat 32 xs.length) }

/-- LOOKUP's indices after its tests (40_wordlist_rom.md R116). -/
def lookupIndices (s : State) : Except Raise (List Nat) :=
  if Config.idxCap < s.wordCnt.toNat then .error ⟨.badLength, 0x028⟩
  else
    match firstBadIndex (indices s) with
    | some i => .error ⟨.badIndex, BitVec.ofNat 32 i⟩
    | none => .ok (indices s)

/-- The body of LOOKUP (40_wordlist_rom.md R116). -/
def lookupBody (p : Platform) (s : State) : Except Raise Writes :=
  match checkWordlist p s with
  | .error r => .error r
  | .ok l =>
    match lookupIndices s with
    | .error r => .error r
    | .ok xs => .ok (mnemonicWrites (wordString p l xs))

/-- LOOKUP on a platform: the accept step (40_wordlist_rom.md R116, 10_state.md R50). -/
def execLookupOn (p : Platform) (s : State) : Res :=
  .next (issue s (encode .lookup) { pend := .ofBody (lookupBody p s) })

/-- LOOKUP (40_wordlist_rom.md R116). -/
def execLookup (s : State) : Res := execLookupOn Config.platform s

/-- The indices of the tokens from position `j` on, or the position of the first token the wordlist lacks
(40_wordlist_rom.md R118). -/
def findTokens (p : Platform) (l : LangId) (j : Nat) : List Bytes → Except Raise (List Nat)
  | [] => .ok []
  | t :: rest =>
    match findWord p l t with
    | none => .error ⟨.invalidWord, BitVec.ofNat 32 j⟩
    | some r =>
      match findTokens p l (j + 1) rest with
      | .error e => .error e
      | .ok rs => .ok (r :: rs)

/-- Steps 1 and 2 of decode: the wordlist test, the length test, and every token looked up
(40_wordlist_rom.md R118, 43_codec.md R165). -/
def searchIndices (p : Platform) (s : State) : Except Raise (List Nat) :=
  match checkWordlist p s with
  | .error r => .error r
  | .ok l =>
    if Config.mnemCap < s.mnemLen.toNat then .error ⟨.badLength, 0x02C⟩
    else findTokens p l 0 (tokens (mnemonic s))

/-- The token the search stopped at: the first unknown one, else the last one (assumption log 4). -/
def stopToken (p : Platform) (l : LangId) : List Bytes → Bytes
  | [] => []
  | [t] => t
  | t :: rest => if (findWord p l t).isNone then t else stopToken p l rest

/-- What a search leaves in the token buffer: nothing when an earlier test fails (assumption log 4). -/
def searchToken (p : Platform) (s : State) : Bytes :=
  match checkWordlist p s with
  | .error _ => []
  | .ok l => if Config.mnemCap < s.mnemLen.toNat then [] else stopToken p l (tokens (mnemonic s))

/-- The body of SEARCH (40_wordlist_rom.md R118). -/
def searchBody (p : Platform) (s : State) : Except Raise Writes :=
  match searchIndices p s with
  | .error r => .error r
  | .ok xs => .ok (indexWrites xs)

/-- SEARCH on a platform: the accept step (40_wordlist_rom.md R118, 10_state.md R50). -/
def execSearchOn (p : Platform) (s : State) : Res :=
  .next (issue s (encode .search) { pend := .ofBody (searchBody p s), work := { token := searchToken p s } })

/-- SEARCH (40_wordlist_rom.md R118). -/
def execSearch (s : State) : Res := execSearchOn Config.platform s

/-- One byte of a ROM image entry: the length, the word, zeros (20_memory.md R75). -/
def romEntryByte (w : Bytes) (k : Nat) : Byte :=
  if k = 0 then BitVec.ofNat 8 w.length else w[k - 1]?.getD 0

/-- The byte at an address of the ROM image: entry `i` of language `l` starts at `65536*l + 32*i`
(20_memory.md R75). -/
def romImageByte (p : Platform) (a : Nat) : Byte :=
  if h : a / 65536 < Config.nLang then romEntryByte (word p ⟨a / 65536, h⟩ (a % 65536 / 32)) (a % 32) else 0

/-- The word an image entry holds: the length byte says how many bytes follow (20_memory.md R75). -/
def wordOfImage (image : Nat → Byte) (l i : Nat) : Bytes :=
  let start := 65536 * l + 32 * i
  (List.range (image start).toNat).map (fun k => image (start + 1 + k))

end Sys2Proof.Machine
end

