-- ==== Sys2Proof/Machine/BitPacker.lean ====
section
/-! DEFINITION. BPK, the entropy-checksum bit-packer: PACK and UNPACK (42_bitpacker.md). -/

namespace Sys2Proof.Machine

/-- `NW(L) = 3 * L div 4` words (00_scope.md R6). -/
def numWords (len : Nat) : Nat := 3 * len / 4

/-- `validcnt(n)` (42_bitpacker.md R140). -/
def validCnt (n : Nat) : Bool := [12, 15, 18, 21, 24].contains n

/-- The entropy length of `n` words, `4 * n div 3` bytes (42_bitpacker.md R140). -/
def entLenOfWords (n : Nat) : Nat := 4 * n / 3

/-- The checksum width of `n` words, `n div 3` bits (42_bitpacker.md R140). -/
def csWidthOfWords (n : Nat) : Nat := n / 3

/-- `x[0..n-1]`: the groups of W (42_bitpacker.md R143). -/
def packIndices (p : Platform) (e : Bytes) : List Nat :=
  (List.range (numWords e.length)).map (group (workingBuffer p e))

/-- The request PACK sends to the SHA256 port (41_checksum.md R130). -/
def packRequest (s : State) : Option Bytes := if validLen s.entLen.toNat then some (entropy s) else none

/-- PACK's indices after the length test (42_bitpacker.md R143, 41_checksum.md R131). -/
def packResult (p : Platform) (s : State) : Except Raise (List Nat) :=
  if validLen s.entLen.toNat then .ok (packIndices p (entropy s)) else .error ⟨.invalidEntropyLength, s.entLen⟩

/-- The body of PACK (42_bitpacker.md R143). -/
def packBody (p : Platform) (s : State) : Except Raise Writes :=
  match packResult p s with
  | .error r => .error r
  | .ok xs => .ok (indexWrites xs)

/-- PACK on a platform: the accept step (42_bitpacker.md R143, 10_state.md R50). -/
def execPackOn (p : Platform) (s : State) : Res :=
  .next (issue s (encode .pack)
    { pend := .ofBody (packBody p s), shaReq := packRequest s, work := .ofRequest p (packRequest s) })

/-- PACK (42_bitpacker.md R143). -/
def execPack (s : State) : Res := execPackOn Config.platform s

/-- `E`: the entropy part of the stream of an index list (42_bitpacker.md R145). -/
def splitEntropy (xs : List Nat) : Bytes :=
  (List.range (entLenOfWords xs.length)).map
    (fun m => BitVec.ofNat 8 (msbNat (fun k => streamBit xs (8 * m + k)) 8))

/-- `s`: the checksum part of the stream of an index list (42_bitpacker.md R145). -/
def splitChecksum (xs : List Nat) : Nat :=
  msbNat (fun k => streamBit xs (8 * entLenOfWords xs.length + k)) (csWidthOfWords xs.length)

/-- Steps 5 and 6 of decode: the recovered entropy when the checksum agrees (42_bitpacker.md R146). -/
def verified (p : Platform) (xs : List Nat) : Except Raise Bytes :=
  if checksumOf p (splitEntropy xs) (csWidthOfWords xs.length) = splitChecksum xs then .ok (splitEntropy xs)
  else .error ⟨.checksumMismatch, 0⟩

/-- The writes of a recovered entropy: the whole of ENT, and ENT_LEN (42_bitpacker.md R146). -/
def entropyWrites (e : Bytes) : Writes :=
  { ent := some (bytesVec Config.entCap e), entLen := some (BitVec.ofNat 32 e.length) }

/-- UNPACK's indices after the tests that precede its digest request (42_bitpacker.md R146). -/
def unpackIndices (s : State) : Except Raise (List Nat) :=
  if validCnt s.wordCnt.toNat then
    match firstBadIndex (indices s) with
    | some i => .error ⟨.badIndex, BitVec.ofNat 32 i⟩
    | none => .ok (indices s)
  else .error ⟨.invalidMnemonicLength, s.wordCnt⟩

/-- The request UNPACK sends to the SHA256 port: the recovered entropy (41_checksum.md R130). -/
def unpackRequest (s : State) : Option Bytes :=
  match unpackIndices s with
  | .error _ => none
  | .ok xs => some (splitEntropy xs)

/-- The body of UNPACK (42_bitpacker.md R146). -/
def unpackBody (p : Platform) (s : State) : Except Raise Writes :=
  match unpackIndices s with
  | .error r => .error r
  | .ok xs =>
    match verified p xs with
    | .error r => .error r
    | .ok e => .ok (entropyWrites e)

/-- UNPACK on a platform: the accept step (42_bitpacker.md R146, 10_state.md R50). -/
def execUnpackOn (p : Platform) (s : State) : Res :=
  .next (issue s (encode .unpack)
    { pend := .ofBody (unpackBody p s), shaReq := unpackRequest s, work := .ofRequest p (unpackRequest s) })

/-- UNPACK (42_bitpacker.md R146). -/
def execUnpack (s : State) : Res := execUnpackOn Config.platform s

end Sys2Proof.Machine
end

