-- ==== Sys2Proof/Machine/Codec.lean ====
section
/-! DEFINITION. The whole codec: ENCODE, DECODE and CHECK (43_codec.md). -/

namespace Sys2Proof.Machine

/-- The request ENCODE sends to the SHA256 port: only when the wordlist test and the length test pass
(41_checksum.md R130). -/
def encodeRequest (p : Platform) (s : State) : Option Bytes :=
  match checkWordlist p s with
  | .error _ => none
  | .ok _ => packRequest s

/-- The body of ENCODE (43_codec.md R160). -/
def encodeBody (p : Platform) (s : State) : Except Raise Writes :=
  match checkWordlist p s with
  | .error r => .error r
  | .ok l =>
    match packResult p s with
    | .error r => .error r
    | .ok xs =>
      .ok { indexWrites xs with
            mnem := (mnemonicWrites (wordString p l xs)).mnem
            mnemLen := (mnemonicWrites (wordString p l xs)).mnemLen }

/-- ENCODE on a platform: the accept step (43_codec.md R160, 10_state.md R50). -/
def execEncodeOn (p : Platform) (s : State) : Res :=
  .next (issue s (encode .encode)
    { pend := .ofBody (encodeBody p s), shaReq := encodeRequest p s, work := .ofRequest p (encodeRequest p s) })

/-- ENCODE (43_codec.md R160). -/
def execEncode (s : State) : Res := execEncodeOn Config.platform s

/-- DECODE's indices after steps 1 to 3: every token is looked up before the count is tested
(43_codec.md R163, R165). -/
def decodeIndices (p : Platform) (s : State) : Except Raise (List Nat) :=
  match searchIndices p s with
  | .error r => .error r
  | .ok xs =>
    if validCnt xs.length then .ok xs else .error ⟨.invalidMnemonicLength, BitVec.ofNat 32 xs.length⟩

/-- The request DECODE and CHECK send to the SHA256 port (41_checksum.md R130). -/
def decodeRequest (p : Platform) (s : State) : Option Bytes :=
  match decodeIndices p s with
  | .error _ => none
  | .ok xs => some (splitEntropy xs)

/-- The body of DECODE (43_codec.md R163). -/
def decodeBody (p : Platform) (s : State) : Except Raise Writes :=
  match decodeIndices p s with
  | .error r => .error r
  | .ok xs =>
    match verified p xs with
    | .error r => .error r
    | .ok e =>
      .ok { indexWrites xs with ent := (entropyWrites e).ent, entLen := (entropyWrites e).entLen }

/-- What DECODE and CHECK leave in working storage (assumption log 4). -/
def decodeWork (p : Platform) (s : State) : Work :=
  { Work.ofRequest p (decodeRequest p s) with token := searchToken p s }

/-- DECODE on a platform: the accept step (43_codec.md R163, 10_state.md R50). -/
def execDecodeOn (p : Platform) (s : State) : Res :=
  .next (issue s (encode .decode)
    { pend := .ofBody (decodeBody p s), shaReq := decodeRequest p s, work := decodeWork p s })

/-- DECODE (43_codec.md R163). -/
def execDecode (s : State) : Res := execDecodeOn Config.platform s

/-- The outcome is a success. -/
def succeeded {α : Type} : Except Raise α → Bool
  | .ok _ => true
  | .error _ => false

/-- The body of CHECK: VALID says whether DECODE on the same inputs would succeed, and no failure is reported
(43_codec.md R166, 90_conflicts.md C3; assumption log 9). -/
def checkBody (p : Platform) (s : State) : Except Raise Writes :=
  .ok { valid := some (succeeded (decodeBody p s)) }

/-- CHECK on a platform: the accept step (43_codec.md R166, 10_state.md R50). -/
def execCheckOn (p : Platform) (s : State) : Res :=
  .next (issue s (encode .check)
    { pend := .ofBody (checkBody p s), shaReq := decodeRequest p s, work := decodeWork p s })

/-- CHECK (43_codec.md R166). -/
def execCheck (s : State) : Res := execCheckOn Config.platform s

end Sys2Proof.Machine
end

