-- ==== Sys2Proof/Machine/Housekeeping.lean ====
section
/-! DEFINITION. Housekeeping: CLEAR and the illegal command word (45_housekeeping.md). -/

namespace Sys2Proof.Machine

/-- The body of CLEAR: every buffer and length register to zero; it cannot fail (45_housekeeping.md R200). -/
def clearBody : Except Raise Writes := .ok (zeroOutputs .clear)

/-- CLEAR: the accept step (45_housekeeping.md R200, 10_state.md R50). -/
def execClear (s : State) : Res := .next (issue s (encode .clear) { pend := .ofBody clearBody })

/-- The body of an illegal word: IllegalCommand with the word itself (45_housekeeping.md R202). -/
def illegalBody (v : Word) : Except Raise Writes := .error ⟨.illegalCommand, v⟩

/-- A word that is no command, written to CMD: accepted like a command, it fails at completion
(30_encoding.md R94, 45_housekeeping.md R202). -/
def execIllegal (v : Word) (s : State) : Res := .next (issue s v { pend := .ofBody (illegalBody v) })

end Sys2Proof.Machine
end

