-- ==== Sys2Proof/Machine/Seed.lean ====
section
/-! DEFINITION. KIC, the PBKDF2-HMAC iteration controller: DERIVE and its iterate step (44_seed.md). -/

namespace Sys2Proof.Machine

/-- The length tests of DERIVE, MNEM_LEN before PASS_LEN (44_seed.md R183, 60_exceptions.md R213). -/
def deriveError (s : State) : Option Raise :=
  if Config.mnemCap < s.mnemLen.toNat then some ⟨.badLength, 0x02C⟩
  else if Config.passCap < s.passLen.toNat then some ⟨.badLength, 0x030⟩
  else none

/-- What the accept step of DERIVE puts into hidden state: a failed length test, or "DERIVE running"
(10_state.md R50, 44_seed.md R184). -/
def deriveLaunch (s : State) : Launch :=
  match deriveError s with
  | some r => { pend := .fail r }
  | none => { pend := .derive, work := { salt := firstMessage s } }

/-- The accept step of a DERIVE that passes both length tests also zeroes U and T (44_seed.md R184). -/
def clearChain (s : State) : State :=
  if busy s || (deriveError s).isSome then s else { s with u := zeroSeed, t := zeroSeed }

/-- DERIVE: the accept step (44_seed.md R183, R184, 10_state.md R50). -/
def execDerive (s : State) : Res := .next (issue (clearChain s) (encode .derive) (deriveLaunch s))

/-- The key and the message of the next request on the HMAC512 port (44_seed.md R184). -/
def hmacRequest (s : State) : Bytes × Bytes :=
  if s.iter = 0 then (password s, firstMessage s) else (password s, s.u.toList)

/-- One iterate step: one HMAC512 request, then T and ITER (44_seed.md R184, 10_state.md R51; assumption log 18). -/
def iterate (p : Platform) (s : State) : State :=
  let answer := p.hmac512 (hmacRequest s).1 (hmacRequest s).2
  { s with u := answer, t := xorVec s.t answer, iter := s.iter + 1 }

/-- `U[i+1]` of the chain of HMAC512 answers (44_seed.md R183). -/
def chainU (p : Platform) (key msg : Bytes) : Nat → Vector Byte 64
  | 0 => p.hmac512 key msg
  | i + 1 => p.hmac512 key (chainU p key msg i).toList

/-- `U[1] xor ... xor U[k]` (44_seed.md R183). -/
def chainT (p : Platform) (key msg : Bytes) : Nat → Vector Byte 64
  | 0 => zeroSeed
  | k + 1 => xorVec (chainT p key msg k) (chainU p key msg k)

/-- The seed of a mnemonic string and a passphrase: 2048 chained calls (44_seed.md R183). -/
def derivedSeed (p : Platform) (s : State) : Vector Byte 64 :=
  chainT p (password s) (firstMessage s) Config.iterTotal

end Sys2Proof.Machine
end

