-- ==== Sys2Proof/Machine/Engine.lean ====
section
/-! DEFINITION. The engine's turn: which of its steps is enabled and what it does (10_state.md R51, R52,
20_memory.md R78); and the nine meanings on any platform. -/

namespace Sys2Proof.Machine

/-- The iterate step is enabled (10_state.md R51); a unit that does not answer never enables it
(20_memory.md R78). -/
def iterateEnabled (s : State) : Bool :=
  busy s && s.pend == .derive && decide (s.iter.toNat < Config.iterTotal) && s.hmacUp

/-- The answers the complete step needs have come (20_memory.md R78). -/
def answersIn (s : State) : Bool := s.shaReq.isNone || s.shaUp

/-- The complete step is enabled (10_state.md R52): an outcome is there, and a DERIVE that runs has made all its
calls. -/
def completeEnabled (s : State) : Bool :=
  busy s && answersIn s &&
    match s.pend with
    | .none => false
    | .ok _ | .fail _ => true
    | .derive => decide (Config.iterTotal ≤ s.iter.toNat)

/-- The engine's turn: its one enabled step, or nothing (10_state.md R51, R52; 60_exceptions.md R225). -/
def engineStep (p : Platform) (s : State) : State :=
  if iterateEnabled s then iterate p s else if completeEnabled s then complete s else s

/-- `k` turns of the engine with nothing between them. -/
def engineSteps (p : Platform) : Nat → State → State
  | 0, s => s
  | k + 1, s => engineSteps p k (engineStep p s)

/-- The nine meanings on any platform; `exec` is this on the hardware's own platform. -/
def execOn (p : Platform) (i : Instr) (s : State) : Res :=
  match i with
  | .encode => execEncodeOn p s
  | .decode => execDecodeOn p s
  | .check => execCheckOn p s
  | .derive => execDerive s
  | .pack => execPackOn p s
  | .unpack => execUnpackOn p s
  | .lookup => execLookupOn p s
  | .search => execSearchOn p s
  | .clear => execClear s

end Sys2Proof.Machine
end

