-- ==== Sys2Proof/Machine/Step.lean ====
section
/-! DEFINITION. One step of the machine: the first coming event, or the engine's turn when none is coming
(20_memory.md R71; assumption log 1). -/

namespace Sys2Proof.Machine

/-- What one event does, with the meanings `ex` of the commands and the platform `p`. -/
def stepEvent (ex : Instr → State → Res) (p : Platform) (s : State) : Event → Res
  | .read a => if a.wf then .next (hostRead p s a.addr) else .refused (.busAccess a)
  | .write a v => if a.wf then hostWrite ex execIllegal s a.addr v else .refused (.busAccess a)
  | .engine => .next (engineStep p s)
  | .reset => .next (resetBlock s)
  | .units sha hmac => .next { s with shaUp := sha, hmacUp := hmac }

/-- One step: take the first coming event; with none coming the engine goes on (10_state.md R52). -/
def stepWith (ex : Instr → State → Res) (p : Platform) (s : State) : Res :=
  match s.inputs with
  | [] => .next (engineStep p s)
  | e :: rest => stepEvent ex p { s with inputs := rest } e

/-- One step on any platform. -/
def stepOn (p : Platform) (s : State) : Res := stepWith (execOn p) p s

/-- One step of the hardware. -/
def step (s : State) : Host.Outcome State Fault Refusal := stepWith exec Config.platform s

/-- The analog of an instruction in the place step fetches from: the host's write of the word to CMD is the next
event, and the engine is IDLE, so that the very next step accepts it (10_state.md R23, R50; assumption log 2). The
bits above `nbits` are zero. -/
def State.withFetchWord (s : State) (nbits w : Nat) : State :=
  let ready := if busy s then { clearHidden s with phase := .idle } else s
  { ready with inputs := .write ⟨0x004, 4⟩ (BitVec.ofNat 32 (w % 2 ^ nbits)) :: s.inputs }

end Sys2Proof.Machine
end

