-- ==== Sys2Proof/Machine/Script.lean ====
section
/-! DEFINITION. Host scripts (30_encoding.md R100) and their pseudo-operations (R101) as lists of events. -/

namespace Sys2Proof.Machine.Script

/-- `WR offset, value` (30_encoding.md R100). -/
def wr (off : Nat) (v : Word) : Event := .write ⟨off, 4⟩ v

/-- `RD offset` (30_encoding.md R100). -/
def rd (off : Nat) : Event := .read ⟨off, 4⟩

/-- `LDBUF`: the bytes in groups of four from a buffer's first offset, the last group padded with zeros
(30_encoding.md R101). -/
def ldBuf (off : Nat) : Bytes → List Event
  | [] => []
  | [a] => [wr off (packCode [a])]
  | [a, b] => [wr off (packCode [a, b])]
  | [a, b, c] => [wr off (packCode [a, b, c])]
  | a :: b :: c :: d :: rest => wr off (packCode [a, b, c, d]) :: ldBuf (off + 4) rest

/-- `SETLANG code` (30_encoding.md R101). For a code of more than four bytes the host may write any four of its bytes or
zero (R96); this writes the first four (DESIGN CHOICE, assumption log 20), and any other choice is `wr 0x010 v`. -/
def setLang (code : Bytes) : Event := wr 0x010 (packCode code)

/-- `ACK`: clear DONE and HAZ (30_encoding.md R101). -/
def ack : Event := wr 0x008 0x0000000A

/-- `POLL` as one of the traces it can have: `k` reads of STATUS, each followed by a turn of the engine, and a last
read (30_encoding.md R101, 93_implementation_defined.md U7). -/
def poll (k : Nat) : List Event := (List.replicate k [rd 0x008, .engine]).flatten ++ [rd 0x008]

/-- `RUN cmd` with that trace of POLL (30_encoding.md R101). -/
def run (i : Instr) (k : Nat) : List Event := wr 0x004 (encode i) :: poll k

end Sys2Proof.Machine.Script
end

