-- ==== Sys2Proof/Safety.lean ====
section
/-! DEFINITION. What a safe state of ECBP is: the invariants of 10_state.md R48, R49 and R53, and the ROM conditions
that make the codec reversible (20_memory.md R74). -/

namespace Sys2Proof.Machine

/-- All hidden storage is zero (10_state.md R48). -/
structure HiddenZero (s : State) : Prop where
  cmdw : s.cmdw = 0
  pend : s.pend = .none
  u : s.u = zeroSeed
  t : s.t = zeroSeed
  work : s.work = {}
  shaReq : s.shaReq = none

/-- Every output `a` writes is one that `b` writes (10_state.md R52: "only registers in out(op)"). -/
def Writes.within (a b : Writes) : Bool :=
  (a.ent.isNone || b.ent.isSome) && (a.entLen.isNone || b.entLen.isSome) && (a.idx.isNone || b.idx.isSome) &&
  (a.wordCnt.isNone || b.wordCnt.isSome) && (a.mnem.isNone || b.mnem.isSome) &&
  (a.mnemLen.isNone || b.mnemLen.isSome) && (a.pass.isNone || b.pass.isSome) &&
  (a.passLen.isNone || b.passLen.isSome) && (a.seed.isNone || b.seed.isSome) && (a.valid.isNone || b.valid.isSome)

/-- The invariant of the engine and its flags. -/
structure Inv (s : State) : Prop where
  /-- 10_state.md R48: whenever PHASE = IDLE all hidden state is zero -/
  idleHidden : s.phase = .idle → HiddenZero s
  /-- 10_state.md R50: while a command runs its outcome is there -/
  busyPend : s.phase = .busy → s.pend ≠ .none
  /-- 10_state.md R30, R50: STATUS.OP is the low byte of the word in flight -/
  busyOp : s.phase = .busy → s.op = s.cmdw.extractLsb' 0 8
  /-- 10_state.md R50, 70_reset_and_hazards.md R247: DONE = 0, VALID = 0, ERR = 0, ERR_INFO = 0 while BUSY -/
  busyFlags : s.phase = .busy → s.done = false ∧ s.valid = false ∧ s.err = none ∧ s.errInfo = 0
  /-- 10_state.md R41: ITER never exceeds 2048 -/
  iterBound : s.iter.toNat ≤ 2048
  /-- 10_state.md R41, R51: only a DERIVE counts -/
  iterOp : s.iter ≠ 0 → s.op = 0x04
  /-- 10_state.md R50, R51: "DERIVE running" means DERIVE was accepted and passed its length tests -/
  deriveRuns : s.pend = .derive → s.cmdw = encode .derive ∧ s.mnemLen.toNat ≤ 1024 ∧ s.passLen.toNat ≤ 256
  /-- 10_state.md R51: no other command has iterate steps -/
  otherChain : s.phase = .busy → s.pend ≠ .derive → s.iter = 0 ∧ s.u = zeroSeed ∧ s.t = zeroSeed
  /-- 10_state.md R52, R53: an outcome writes only outputs of its command -/
  pendWithin : ∀ w, s.pend = .ok w → w.within (zeroOutputsOf s.cmdw) = true
  /-- 10_state.md R27: VALID is set by a CHECK only, and a CHECK reports no error -/
  validOp : s.valid = true → s.op = 0x03 ∧ s.err = none
  /-- 10_state.md R42: ERR_INFO is 0 when ERR = 0 -/
  errInfoZero : s.err = none → s.errInfo = 0
  /-- 20_memory.md R76: a SHA256 request carries 16, 20, 24, 28 or 32 bytes -/
  shaLength : ∀ m, s.shaReq = some m → validLen m.length = true
  /-- 43_codec.md R166, 45_housekeeping.md R200: a CHECK reports no failure and a CLEAR cannot fail -/
  pendFail : ∀ r, s.pend = .fail r → s.cmdw ≠ encode .check ∧ s.cmdw ≠ encode .clear
  /-- 10_state.md R48, 41_checksum.md R130: the sizes of the working storage; of a digest byte 0 alone is kept -/
  workSize : s.work.w.length ≤ 33 ∧ s.work.digest.length ≤ 1 ∧ s.work.token.length ≤ 1024 ∧ s.work.salt.length ≤ 268

/-- The chain of a running DERIVE after ITER calls (44_seed.md R184): `U = U[k]` and `T = U[1] xor ... xor U[k]`. -/
structure ChainInv (p : Platform) (s : State) : Prop where
  t : s.pend = .derive → s.t = chainT p (password s) (firstMessage s) s.iter.toNat
  u : s.pend = .derive → s.iter ≠ 0 → s.u = chainU p (password s) (firstMessage s) (s.iter.toNat - 1)
  bound : s.iter.toNat ≤ 2048

/-- 20_memory.md R74 (b) for language `l`: the words are pairwise different. -/
def RomUnique (p : Platform) (l : LangId) : Prop :=
  ∀ i j : Fin 2048, (p.rom l i).bytes = (p.rom l j).bytes → i = j

/-- The two entries the source fixes (40_wordlist_rom.md R113). -/
def RomReference (p : Platform) : Prop :=
  (p.rom 0 0).bytes = [0x61, 0x62, 0x61, 0x6E, 0x64, 0x6F, 0x6E] ∧ (p.rom 0 3).bytes = [0x61, 0x62, 0x6F, 0x75, 0x74]

/-! The words the claims are stated in. -/

/-- `s` with the status a command of opcode `op` leaves when it completes (10_state.md R50, R52): hidden state zero,
DONE set, VALID, ERR and ERR_INFO as the outcome says, ITER zero, IDLE. -/
def completed (s : State) (op : Byte) (r : Option Raise) : State :=
  { clearHidden s with
    phase := .idle
    op := op
    done := true
    valid := false
    err := r.map Raise.kind
    errInfo := (r.map Raise.info).getD 0
    iter := 0 }

/-- `s` after command `i` failed with `r`: its outputs zero, nothing else but the status changed
(60_exceptions.md R214, 10_state.md R53). -/
def failed (s : State) (i : Instr) (r : Raise) : State := commit (completed s (opcode i) (some r)) (zeroOutputs i)

/-- Command `i` accepted and then one turn of the engine, which completes every command but a DERIVE that runs. -/
def oneShot (p : Platform) (i : Instr) (s : State) : State :=
  match execOn p i s with
  | .next t => engineStep p t
  | .fault _ | .refused _ => s

/-- An IDLE engine whose SHA256 unit answers. -/
structure Ready (s : State) : Prop where
  idle : s.phase = .idle
  sha : s.shaUp = true

/-- The two states agree on the inputs of command `i` (10_state.md R53), buffers up to their lengths only. -/
def SameInputs (s s' : State) : Instr → Prop
  | .encode => s.lang = s'.lang ∧ s.entLen = s'.entLen ∧ entropy s = entropy s'
  | .decode | .check | .search => s.lang = s'.lang ∧ s.mnemLen = s'.mnemLen ∧ mnemonic s = mnemonic s'
  | .derive =>
    s.mnemLen = s'.mnemLen ∧ mnemonic s = mnemonic s' ∧ s.passLen = s'.passLen ∧ passphrase s = passphrase s'
  | .pack => s.entLen = s'.entLen ∧ entropy s = entropy s'
  | .unpack => s.wordCnt = s'.wordCnt ∧ indices s = indices s'
  | .lookup => s.lang = s'.lang ∧ s.wordCnt = s'.wordCnt ∧ indices s = indices s'
  | .clear => True

/-- The five buffers, the four length registers and LANG are the same in both states. -/
structure SameData (s s' : State) : Prop where
  ent : s.ent = s'.ent
  idx : s.idx = s'.idx
  seed : s.seed = s'.seed
  pass : s.pass = s'.pass
  mnem : s.mnem = s'.mnem
  entLen : s.entLen = s'.entLen
  wordCnt : s.wordCnt = s'.wordCnt
  mnemLen : s.mnemLen = s'.mnemLen
  passLen : s.passLen = s'.passLen
  lang : s.lang = s'.lang

/-- A position where a token starts (40_wordlist_rom.md R117). -/
def tokenStart (x : Bytes) (p : Nat) : Bool :=
  match x[p]? with
  | none => false
  | some b => !isWs b && (p == 0 || isWs (x[p - 1]?.getD Config.sep))

end Sys2Proof.Machine
end

