-- ==== Sys2Proof/Certificates/Slice0/Obligations.lean ====
section
/-! DEFINITION. The statements for the provers. Each docstring names the rule of spec/ it formalises, or says that it
rests on the model's own choice. -/

open Sys2Proof Sys2Proof.Machine

/-! ### Encoding -/

/-- 30_encoding.md R91, R94, on words written out from the opcode map: a sanity statement. -/
def Obligations.OpcodeWordsDecode : Prop :=
  commandOf 0x00000001 = some .encode ∧ commandOf 0x00000002 = some .decode ∧ commandOf 0x00000003 = some .check ∧
  commandOf 0x00000004 = some .derive ∧ commandOf 0x00000005 = some .pack ∧ commandOf 0x00000006 = some .unpack ∧
  commandOf 0x00000007 = some .lookup ∧ commandOf 0x00000008 = some .search ∧ commandOf 0x00000009 = some .clear ∧
  commandOf 0x00000000 = none ∧ commandOf 0x0000000A = none ∧ commandOf 0x000000FF = none ∧
  commandOf 0x00000101 = none ∧ commandOf 0x80000001 = none

/-- 30_encoding.md R91: a word is a command exactly when it selects a row of the opcode map, it is then the one encoding
of that command, and the words of R94 are rejected. -/
def Obligations.DecodeSelectsTheOneEncoding : Prop :=
  ∀ (v : Word) (i : Instr),
    (decode v = .ok i ↔ v = encode i) ∧
    (decode v = .ok i ↔ ∃ r ∈ opcodeMap, r.command = i ∧ r.mask = 0xFFFFFFFF ∧ v &&& r.mask = r.pattern) ∧
    ((∃ e, decode v = .error e) ↔ (v.toNat / 256 ≠ 0 ∨ v.toNat % 256 = 0 ∨ 9 < v.toNat % 256))

/-! ### A step -/

/-- 10_state.md R23, 30_encoding.md R92: the host's write to CMD is the fetch. A step whose next event writes a word that
decodes to a command is that command's exec, and an illegal word's step is execIllegal; the event is taken off the list
and nothing else is added (the list of events is the model's own, log 1). The third clause is about the model's own device
`State.withFetchWord`, which stands for the host's write (log 2, DESIGN CHOICE). -/
def Obligations.StepRunsTheDecodedCommand : Prop :=
  (∀ (s : State) (rest : List Event) (v : Word) (i : Instr), s.inputs = .write ⟨0x004, 4⟩ v :: rest → decode v = .ok i →
    step s = exec i { s with inputs := rest }) ∧
  (∀ (s : State) (rest : List Event) (v : Word) (e : DecodeError), s.inputs = .write ⟨0x004, 4⟩ v :: rest →
    decode v = .error e → step s = execIllegal v { s with inputs := rest }) ∧
  (∀ (s : State) (i : Instr), s.phase = .idle →
    step (s.withFetchWord 32 (encode i).toNat) = exec i s)

/-- 20_memory.md R71, R62: every other event. The order of events is the list's (the model's own, log 1); a read puts its
value into the model's own field `rdata` (log 5); reset keeps the units' availability and the coming events (the model's
choice, log 14); a unit that starts or stops to answer changes the model's own fields (log 6); an access the bus cannot
express is refused (log 12); with no event coming the engine goes on. -/
def Obligations.StepTakesOneEvent : Prop :=
  ∀ (p : Platform) (s : State) (rest : List Event),
    (s.inputs = [] → stepOn p s = .next (engineStep p s)) ∧
    (s.inputs = .engine :: rest → stepOn p s = .next (engineStep p { s with inputs := rest })) ∧
    (s.inputs = .reset :: rest →
      stepOn p s = .next { State.reset with shaUp := s.shaUp, hmacUp := s.hmacUp, inputs := rest }) ∧
    (∀ sha hmac, s.inputs = .units sha hmac :: rest →
      stepOn p s = .next { s with shaUp := sha, hmacUp := hmac, inputs := rest }) ∧
    (∀ off, off % 4 = 0 → off < 2048 → s.inputs = .read ⟨off, 4⟩ :: rest →
      stepOn p s = .next { s with inputs := rest, rdata := some (readAt p s off) }) ∧
    (∀ off v, off % 4 = 0 → off < 2048 → off ≠ 0x004 → s.inputs = .write ⟨off, 4⟩ v :: rest →
      stepOn p s = .next (writeAt { s with inputs := rest } off v)) ∧
    (∀ off n v, (n ≠ 4 ∨ off % 4 ≠ 0 ∨ 2048 ≤ off) →
      (s.inputs = .read ⟨off, n⟩ :: rest ∨ s.inputs = .write ⟨off, n⟩ v :: rest) →
      stepOn p s = .refused (.busAccess ⟨off, n⟩))

/-! ### Reset -/

/-- 10_state.md R54: what the host and the engine see after reset. WL_BITS is stated on the hardware's own platform. -/
def Obligations.ResetValues : Prop :=
  let s := State.reset
  (∀ p, readAt p s 0x000 = 0x45434201 ∧ readAt p s 0x004 = 0 ∧ readAt p s 0x008 = 0 ∧ readAt p s 0x00C = 0 ∧
    readAt p s 0x010 = 0 ∧ readAt p s 0x014 = 0 ∧ readAt p s 0x01C = 7 ∧ readAt p s 0x020 = 0 ∧ readAt p s 0x024 = 0 ∧
    readAt p s 0x028 = 0 ∧ readAt p s 0x02C = 0 ∧ readAt p s 0x030 = 0 ∧ readAt p s 0x034 = 0 ∧ readAt p s 0x038 = 0) ∧
  readAt Config.platform s 0x018 = 11 ∧
  (∀ k (h : k < 32), s.ent[k] = 0) ∧ (∀ k (h : k < 24), s.idx[k] = 0) ∧ (∀ k (h : k < 64), s.seed[k] = 0) ∧
  (∀ k (h : k < 256), s.pass[k] = 0) ∧ (∀ k (h : k < 1024), s.mnem[k] = 0) ∧
  s.phase = .idle ∧ HiddenZero s ∧ irq s = false

/-- 70_reset_and_hazards.md R240, R241: reset in any state, also while a command runs, discards the outcome, commits
nothing, and leaves ECBP as after reset. That the units' availability and the coming events stay is the model's choice
(log 14). -/
def Obligations.ResetFromAnyState : Prop :=
  ∀ (p : Platform) (s s' : State) (rest : List Event), s.inputs = .reset :: rest → stepOn p s = .next s' →
    s'.phase = .idle ∧ HiddenZero s' ∧ s'.done = false ∧ irq s' = false ∧ s'.iter = 0 ∧ statusWord s' = 0 ∧
    SameData s' State.reset ∧ s'.ie = false ∧ s'.errInfo = 0 ∧ s'.inputs = rest

/-! ### The accept step -/

/-- 10_state.md R50: what the accept step of every command does, and its frame. A DERIVE may also zero U and T
(44_seed.md R184). -/
def Obligations.AcceptStepOfEveryCommand : Prop :=
  ∀ (i : Instr) (s : State), s.phase = .idle → ∃ t, exec i s = .next t ∧
    t.cmdw = encode i ∧ t.op = (encode i).extractLsb' 0 8 ∧ t.done = false ∧ t.valid = false ∧ t.err = none ∧
    t.errInfo = 0 ∧ t.iter = 0 ∧ t.pend ≠ .none ∧ (t.pend = .derive → i = .derive) ∧ t.phase = .busy ∧
    SameData t s ∧ t.haz = s.haz ∧ t.ie = s.ie ∧ t.rdata = s.rdata ∧ t.shaUp = s.shaUp ∧ t.hmacUp = s.hmacUp ∧
    t.inputs = s.inputs ∧ (i ≠ .derive → t.u = s.u ∧ t.t = s.t)

/-- 10_state.md R23, 70_reset_and_hazards.md R246: a write to CMD while BUSY, of a command or of any other word, is
dropped and sets HAZ. -/
def Obligations.CommandWhileBusyIsDropped : Prop :=
  ∀ (s : State) (rest : List Event) (v : Word), s.phase = .busy → s.inputs = .write ⟨0x004, 4⟩ v :: rest →
    step s = .next { s with haz := true, inputs := rest }

/-! ### The complete step -/

/-- 10_state.md R52: a command whose outcome is a success commits its writes in one step. -/
def Obligations.CompleteStepOnSuccess : Prop :=
  ∀ (p : Platform) (s : State) (w : Writes), s.phase = .busy → s.pend = .ok w → (s.shaReq = none ∨ s.shaUp = true) →
    ∃ u, engineStep p s = u ∧ u.phase = .idle ∧ u.done = true ∧ u.err = none ∧ u.errInfo = 0 ∧ HiddenZero u ∧
      u.ent = w.ent.getD s.ent ∧ u.entLen = w.entLen.getD s.entLen ∧ u.idx = w.idx.getD s.idx ∧
      u.wordCnt = w.wordCnt.getD s.wordCnt ∧ u.mnem = w.mnem.getD s.mnem ∧ u.mnemLen = w.mnemLen.getD s.mnemLen ∧
      u.pass = w.pass.getD s.pass ∧ u.passLen = w.passLen.getD s.passLen ∧ u.seed = w.seed.getD s.seed ∧
      u.valid = w.valid.getD s.valid ∧ u.haz = s.haz ∧ u.ie = s.ie ∧ u.lang = s.lang ∧ u.iter = s.iter ∧ u.op = s.op ∧
      u.rdata = s.rdata ∧ u.shaUp = s.shaUp ∧ u.hmacUp = s.hmacUp ∧ u.inputs = s.inputs

/-- 60_exceptions.md R214, 10_state.md R53: a command whose outcome is a failure zeroes exactly its outputs, reports kind
and information, and changes nothing else: its inputs are as they were. CHECK and CLEAR have no such outcome
(43_codec.md R166, 45_housekeeping.md R200; `Inv.pendFail`, kept by every step): a CHECK that finds a failure is in
CheckResult. -/
def Obligations.CompleteStepOnFailure : Prop :=
  ∀ (p : Platform) (s : State) (i : Instr) (r : Raise), i ∉ [.check, .clear] → s.phase = .busy → s.cmdw = encode i →
    s.pend = .fail r → (s.shaReq = none ∨ s.shaUp = true) →
    ∃ u, engineStep p s = u ∧ u.phase = .idle ∧ u.done = true ∧ u.err = some r.kind ∧ u.errInfo = r.info ∧
      HiddenZero u ∧
      u.ent = (if i ∈ [.decode, .unpack] then Vector.replicate 32 0 else s.ent) ∧
      u.entLen = (if i ∈ [.decode, .unpack] then 0 else s.entLen) ∧
      u.idx = (if i ∈ [.encode, .decode, .pack, .search] then Vector.replicate 24 0 else s.idx) ∧
      u.wordCnt = (if i ∈ [.encode, .decode, .pack, .search] then 0 else s.wordCnt) ∧
      u.mnem = (if i ∈ [.encode, .lookup] then Vector.replicate 1024 0 else s.mnem) ∧
      u.mnemLen = (if i ∈ [.encode, .lookup] then 0 else s.mnemLen) ∧
      u.pass = s.pass ∧ u.passLen = s.passLen ∧
      u.seed = (if i = .derive then Vector.replicate 64 0 else s.seed) ∧
      u.valid = s.valid ∧ u.haz = s.haz ∧ u.ie = s.ie ∧ u.lang = s.lang ∧
      u.iter = s.iter ∧ u.op = s.op ∧ u.rdata = s.rdata ∧ u.shaUp = s.shaUp ∧ u.hmacUp = s.hmacUp ∧
      u.inputs = s.inputs

/-- 45_housekeeping.md R202, 30_encoding.md R94: an illegal word is accepted like a command, changes no buffer and no
length, and fails with IllegalCommand and the word itself. -/
def Obligations.IllegalWordFails : Prop :=
  ∀ (s : State) (rest : List Event) (v : Word), s.phase = .idle →
    (v.toNat / 256 ≠ 0 ∨ v.toNat % 256 = 0 ∨ 9 < v.toNat % 256) → s.inputs = .write ⟨0x004, 4⟩ v :: rest →
    ∃ t, step s = .next t ∧ t.phase = .busy ∧ t.op = v.extractLsb' 0 8 ∧ t.done = false ∧ t.valid = false ∧
      t.err = none ∧ t.errInfo = 0 ∧ t.iter = 0 ∧ SameData t s ∧
      engineStep Config.platform t =
        { clearHidden s with
          phase := .idle, op := v.extractLsb' 0 8, done := true, valid := false, err := some .illegalCommand,
          errInfo := v, iter := 0, inputs := rest }

/-- 20_memory.md R78: when the SHA256 unit never answers, a command whose request is outstanding stays
BUSY for any number of turns and nothing changes; when the HMAC512 unit never answers, a DERIVE with calls to make stays
too. Whether a unit answers is the model's own field (log 6). -/
def Obligations.UnitThatNeverAnswersHangs : Prop :=
  ∀ (p : Platform) (s : State) (k : Nat), s.phase = .busy →
    ((s.pend ≠ .derive ∧ s.shaReq ≠ none ∧ s.shaUp = false) ∨
      (s.pend = .derive ∧ s.iter.toNat < 2048 ∧ s.hmacUp = false)) →
    engineSteps p k s = s

/-! ### The language registers and lookup -/

/-- 40_wordlist_rom.md R110, R121: the seven packed codes resolve to their language with MATCH, every other word to English
without; the fallback equivalence; "zh" is no alias. -/
def Obligations.LanguageResolution : Prop :=
  (∀ l : Fin 7, resolveLid (packCode (Config.langCodes[l.val]?.getD [])) = l ∧
    resolveMatch (packCode (Config.langCodes[l.val]?.getD [])) = true) ∧
  (∀ x : Word, (∀ l : Fin 7, x ≠ packCode (Config.langCodes[l.val]?.getD [])) →
    resolveLid x = 0 ∧ resolveMatch x = false) ∧
  resolveLid 0 = resolveLid 0x00006E65 ∧ resolveLid 0x00006E65 = resolveLid 0x2D746F6E ∧ resolveLid 0x2D746F6E = 0 ∧
  resolveLid 0x0000687A = 0 ∧ resolveMatch 0x0000687A = false

/-- 10_state.md R33, R34, R35, R37: the derived and constant read-only registers. -/
def Obligations.DerivedRegisters : Prop :=
  ∀ (p : Platform) (s : State),
    (readAt p s 0x014).toNat = (resolveLid s.lang).val + 256 * (if resolveMatch s.lang then 1 else 0) ∧
    (readAt p s 0x018).toNat = (p.romBits (resolveLid s.lang)).toNat ∧ readAt Config.platform s 0x018 = 11 ∧
    readAt p s 0x01C = 7 ∧
    readAt p s 0x060 = 0x00006E65 ∧ readAt p s 0x064 = 0x00007365 ∧ readAt p s 0x068 = 0x00007266 ∧
    readAt p s 0x06C = 0x00007469 ∧ readAt p s 0x070 = 0x0000706A ∧ readAt p s 0x074 = 0x0073687A ∧
    readAt p s 0x078 = 0x0074687A ∧ readAt p s 0x07C = 0 ∧
    (readAt p s 0x024).toNat =
      (if s.entLen.toNat ∈ [16, 20, 24, 28, 32] then s.entLen.toNat / 4 else 0)

/-- 40_wordlist_rom.md R119: the search answers the smallest index whose word is equal byte for byte, or nothing. -/
def Obligations.FindIsTheSmallestIndex : Prop :=
  ∀ (p : Platform) (l : LangId) (w : Bytes),
    (∀ i, findWord p l w = some i ↔
      ∃ h : i < 2048, (p.rom l ⟨i, h⟩).bytes = w ∧ ∀ j : Fin 2048, j.val < i → (p.rom l j).bytes ≠ w) ∧
    (findWord p l w = none ↔ ∀ j : Fin 2048, (p.rom l j).bytes ≠ w)

/-- 40_wordlist_rom.md R117: the tokens are the maximal runs of bytes outside WS, one for each token start, in order; none
is empty; a string without such a byte has none; `n` bytes hold at most `(n + 1) / 2` of them (1024 bytes at most 512).
WS is six bytes. -/
def Obligations.TokensAreMaximalRuns : Prop :=
  ∀ x : Bytes,
    tokens x =
      ((List.range x.length).filter (tokenStart x)).map (fun q => (x.drop q).takeWhile (fun b => !isWs b)) ∧
    (∀ t ∈ tokens x, t ≠ [] ∧ ∀ b ∈ t, isWs b = false) ∧
    ((∀ b ∈ x, isWs b = true) → tokens x = []) ∧
    2 * (tokens x).length ≤ x.length + 1 ∧
    (∀ b : Byte, isWs b = true ↔ b ∈ [0x09, 0x0A, 0x0B, 0x0C, 0x0D, 0x20])

/-- 20_memory.md R75: the ROM image holds every word: length byte, word, zeros, at `65536*l + 32*i`. -/
def Obligations.RomImageHoldsTheWords : Prop :=
  ∀ (p : Platform) (l : LangId) (i : Fin 2048),
    wordOfImage (romImageByte p) l.val i.val = (p.rom l i).bytes ∧
    (romImageByte p (65536 * l.val + 32 * i.val)).toNat = (p.rom l i).bytes.length ∧
    (∀ k, (p.rom l i).bytes.length < k → k < 32 → romImageByte p (65536 * l.val + 32 * i.val + k) = 0)

/-! ### The bit-packer's arithmetic -/

/-- 42_bitpacker.md R142: a group is eleven bits, most significant first, and its byte form. -/
def Obligations.GroupIsElevenBits : Prop :=
  ∀ (x : Bytes) (i : Nat), 11 * i + 10 < 8 * x.length →
    group x i = ∑ k ∈ Finset.range 11,
      ((x[(11 * i + k) / 8]?.getD 0).toNat / 2 ^ (7 - (11 * i + k) % 8)) % 2 * 2 ^ (10 - k) ∧
    group x i =
      (((x[11 * i / 8]?.getD 0).toNat * 2 ^ 16 + (x[11 * i / 8 + 1]?.getD 0).toNat * 2 ^ 8 +
        (x[11 * i / 8 + 2]?.getD 0).toNat) / 2 ^ (13 - 11 * i % 8)) % 2 ^ 11

/-- 42_bitpacker.md R144, R145: the split of an index list. The entropy bytes and the checksum part are the sums of the
rule, and the checksum part is the low `c` bits of the last index. -/
def Obligations.SplitOfAnIndexList : Prop :=
  ∀ xs : List Nat, xs.length ∈ [12, 15, 18, 21, 24] → (∀ x ∈ xs, x < 2048) →
    let n := xs.length
    let len := 4 * n / 3
    let c := n / 3
    let b := fun j => ((xs[j / 11]?.getD 0) / 2 ^ (10 - j % 11)) % 2
    (splitEntropy xs).length = len ∧
    (∀ m, m < len →
      ((splitEntropy xs)[m]?.getD 0).toNat = ∑ k ∈ Finset.range 8, b (8 * m + k) * 2 ^ (7 - k)) ∧
    splitChecksum xs = ∑ k ∈ Finset.range c, b (8 * len + k) * 2 ^ (c - 1 - k) ∧
    splitChecksum xs = (xs[n - 1]?.getD 0) % 2 ^ c

/-- 41_checksum.md R134: the low `8 - c` bits of the checksum byte reach no index. -/
def Obligations.LowDigestBitsReachNoIndex : Prop :=
  ∀ (e : Bytes) (d d' : Byte) (i : Nat), e.length ∈ [16, 20, 24, 28, 32] →
    d.toNat / 2 ^ (8 - e.length / 4) = d'.toNat / 2 ^ (8 - e.length / 4) → i < 3 * e.length / 4 →
    group (e ++ [d]) i = group (e ++ [d']) i

/-! ### The results of the commands -/

/-- 42_bitpacker.md R143: PACK on a valid length: the request, the indices, the count, and nothing else but the status. -/
def Obligations.PackResult : Prop :=
  ∀ s : State, s.phase = .idle → s.shaUp = true → s.entLen.toNat ∈ [16, 20, 24, 28, 32] →
    let len := s.entLen.toNat
    let e := s.ent.toList.take len
    let w := e ++ [(Config.sha256 e)[0]]
    ∃ t x, exec .pack s = .next t ∧ t.shaReq = some e ∧
      engineStep Config.platform t =
        { completed s 0x05 none with idx := x, wordCnt := BitVec.ofNat 32 (3 * len / 4) } ∧
      ∀ i (h : i < 24), x[i].toNat =
        if i < 3 * len / 4 then
          ∑ k ∈ Finset.range 11, ((w[(11 * i + k) / 8]?.getD 0).toNat / 2 ^ (7 - (11 * i + k) % 8)) % 2 * 2 ^ (10 - k)
        else 0

/-- 41_checksum.md R131, 42_bitpacker.md R143, 43_codec.md R160: PACK and ENCODE on any other length. -/
def Obligations.InvalidEntropyLengthFails : Prop :=
  ∀ (s : State) (i : Instr), i ∈ [.pack, .encode] → s.phase = .idle → s.entLen.toNat ∉ [16, 20, 24, 28, 32] →
    ∃ t, exec i s = .next t ∧ t.shaReq = none ∧
      engineStep Config.platform t = failed s i ⟨.invalidEntropyLength, s.entLen⟩

/-- 42_bitpacker.md R146: UNPACK after its tests: the request is the recovered entropy; with the right checksum the entropy
is committed, with a wrong one ENT and ENT_LEN are zeroed; IDX and WORD_CNT stay. -/
def Obligations.UnpackResult : Prop :=
  ∀ s : State, s.phase = .idle → s.shaUp = true → s.wordCnt.toNat ∈ [12, 15, 18, 21, 24] →
    (∀ i (h : i < 24), i < s.wordCnt.toNat → s.idx[i].toNat < 2048) →
    let n := s.wordCnt.toNat
    let xs := (s.idx.toList.take n).map BitVec.toNat
    let e := splitEntropy xs
    ∃ t, exec .unpack s = .next t ∧ t.shaReq = some e ∧
      ((Config.sha256 e)[0].toNat / 2 ^ (8 - n / 3) = splitChecksum xs →
        ∃ x, engineStep Config.platform t =
            { completed s 0x06 none with ent := x, entLen := BitVec.ofNat 32 (4 * n / 3) } ∧
          x.toList = e ++ List.replicate (32 - 4 * n / 3) 0) ∧
      ((Config.sha256 e)[0].toNat / 2 ^ (8 - n / 3) ≠ splitChecksum xs →
        engineStep Config.platform t =
          { completed s 0x06 (some ⟨.checksumMismatch, 0⟩) with ent := Vector.replicate 32 0, entLen := 0 })

/-- 42_bitpacker.md R146, 40_wordlist_rom.md R116: the tests of UNPACK and LOOKUP on the count and the entries, in their
order, with the smallest bad entry; no digest is requested. -/
def Obligations.CountAndIndexErrors : Prop :=
  ∀ s : State, s.phase = .idle →
    (s.wordCnt.toNat ∉ [12, 15, 18, 21, 24] → ∃ t, exec .unpack s = .next t ∧ t.shaReq = none ∧
      engineStep Config.platform t = failed s .unpack ⟨.invalidMnemonicLength, s.wordCnt⟩) ∧
    (24 < s.wordCnt.toNat → ∃ t, exec .lookup s = .next t ∧
      engineStep Config.platform t = failed s .lookup ⟨.badLength, 0x028⟩) ∧
    (∀ k (h : k < 24), k < s.wordCnt.toNat → 2048 ≤ s.idx[k].toNat →
      (∀ j (hj : j < 24), j < k → s.idx[j].toNat < 2048) →
      (s.wordCnt.toNat ∈ [12, 15, 18, 21, 24] → ∃ t, exec .unpack s = .next t ∧ t.shaReq = none ∧
        engineStep Config.platform t = failed s .unpack ⟨.badIndex, BitVec.ofNat 32 k⟩) ∧
      (s.wordCnt.toNat ≤ 24 → ∃ t, exec .lookup s = .next t ∧
        engineStep Config.platform t = failed s .lookup ⟨.badIndex, BitVec.ofNat 32 k⟩))

/-- 40_wordlist_rom.md R116: LOOKUP writes the words with single spaces between them, and zeros to the end. -/
def Obligations.LookupResult : Prop :=
  ∀ s : State, s.phase = .idle → s.wordCnt.toNat ≤ 24 →
    (∀ i (h : i < 24), i < s.wordCnt.toNat → s.idx[i].toNat < 2048) →
    let words := (List.finRange 24).filterMap (fun i =>
      if h : i.val < s.wordCnt.toNat ∧ s.idx[i].toNat < 2048 then
        some (Config.rom (resolveLid s.lang) ⟨s.idx[i].toNat, h.2⟩).bytes
      else none)
    let str := [0x20].intercalate words
    ∃ t m, exec .lookup s = .next t ∧ str.length ≤ 767 ∧
      engineStep Config.platform t =
        { completed s 0x07 none with mnem := m, mnemLen := BitVec.ofNat 32 str.length } ∧
      m.toList = str ++ List.replicate (1024 - str.length) 0

/-- 40_wordlist_rom.md R118: SEARCH when every token is known: the first 24 indices, the full count, and nothing else but
the status. -/
def Obligations.SearchResult : Prop :=
  ∀ (s : State) (xs : List Nat), s.phase = .idle → s.mnemLen.toNat ≤ 1024 →
    (tokens (s.mnem.toList.take s.mnemLen.toNat)).map (findWord Config.platform (resolveLid s.lang)) = xs.map some →
    ∃ t x, exec .search s = .next t ∧ t.shaReq = none ∧
      engineStep Config.platform t =
        { completed s 0x08 none with idx := x, wordCnt := BitVec.ofNat 32 xs.length } ∧
      x.toList = (xs.map (BitVec.ofNat 32)).take 24 ++ List.replicate (24 - xs.length) 0

/-- 40_wordlist_rom.md R118, 43_codec.md R163, R166: the length test and the first unknown token, for SEARCH and DECODE;
CHECK turns either into VALID = 0. -/
def Obligations.LengthAndWordErrors : Prop :=
  ∀ (s : State) (i : Instr), i ∈ [.search, .decode] → s.phase = .idle →
    (1024 < s.mnemLen.toNat →
      (∃ t, exec i s = .next t ∧ t.shaReq = none ∧ engineStep Config.platform t = failed s i ⟨.badLength, 0x02C⟩) ∧
      (∃ t, exec .check s = .next t ∧ t.shaReq = none ∧ engineStep Config.platform t = completed s 0x03 none)) ∧
    (∀ (pre post : List Bytes) (w : Bytes), s.mnemLen.toNat ≤ 1024 →
      tokens (s.mnem.toList.take s.mnemLen.toNat) = pre ++ w :: post →
      (∀ v ∈ pre, findWord Config.platform (resolveLid s.lang) v ≠ none) →
      findWord Config.platform (resolveLid s.lang) w = none →
      (∃ t, exec i s = .next t ∧ t.shaReq = none ∧
        engineStep Config.platform t = failed s i ⟨.invalidWord, BitVec.ofNat 32 pre.length⟩) ∧
      (∃ t, exec .check s = .next t ∧ t.shaReq = none ∧ engineStep Config.platform t = completed s 0x03 none))

/-- 40_wordlist_rom.md R114, 60_exceptions.md R213: on a platform whose resolved ROM is not 11 bits wide every command that
uses a wordlist fails first with InvalidWordlist, and CHECK answers VALID = 0 (90_conflicts.md C3). -/
def Obligations.InvalidWordlistComesFirst : Prop :=
  ∀ (p : Platform) (s : State), s.phase = .idle → (p.romBits (resolveLid s.lang)).toNat ≠ 11 →
    (∀ i ∈ [Instr.encode, .decode, .lookup, .search], ∃ t, execOn p i s = .next t ∧ t.shaReq = none ∧
      engineStep p t = failed s i ⟨.invalidWordlist, (p.romBits (resolveLid s.lang)).setWidth 32⟩) ∧
    (∃ t, execOn p .check s = .next t ∧ t.shaReq = none ∧ engineStep p t = completed s 0x03 none)

/-- 43_codec.md R160: ENCODE on a valid length: the request, the indices, the count and the string, and nothing else but
the status. -/
def Obligations.EncodeResult : Prop :=
  ∀ s : State, s.phase = .idle → s.shaUp = true → s.entLen.toNat ∈ [16, 20, 24, 28, 32] →
    let len := s.entLen.toNat
    let e := s.ent.toList.take len
    let w := e ++ [(Config.sha256 e)[0]]
    let xs := (List.range (3 * len / 4)).map (group w)
    let str := [0x20].intercalate (xs.map (word Config.platform (resolveLid s.lang)))
    ∃ t x m, exec .encode s = .next t ∧ t.shaReq = some e ∧
      engineStep Config.platform t =
        { completed s 0x01 none with
          idx := x, wordCnt := BitVec.ofNat 32 (3 * len / 4), mnem := m, mnemLen := BitVec.ofNat 32 str.length } ∧
      x.toList = xs.map (BitVec.ofNat 32) ++ List.replicate (24 - 3 * len / 4) 0 ∧
      m.toList = str ++ List.replicate (1024 - str.length) 0 ∧ str.length ≤ 767

/-- 43_codec.md R163: DECODE when every token is known: the count test, the checksum test, and on success all four
outputs. On every platform, the hardware's own among them, where `exec` answers that next state. -/
def Obligations.DecodeResult : Prop :=
  ∀ (p : Platform) (s : State) (xs : List Nat), s.phase = .idle → (p.romBits (resolveLid s.lang)).toNat = 11 →
    s.mnemLen.toNat ≤ 1024 →
    (tokens (s.mnem.toList.take s.mnemLen.toNat)).map (findWord p (resolveLid s.lang)) = xs.map some →
    let n := xs.length
    let e := splitEntropy xs
    ∃ t, execOn p .decode s = .next t ∧ (p = Config.platform → exec .decode s = .next t) ∧
      (n ∉ [12, 15, 18, 21, 24] → t.shaReq = none ∧
        engineStep p t = failed s .decode ⟨.invalidMnemonicLength, BitVec.ofNat 32 n⟩) ∧
      (n ∈ [12, 15, 18, 21, 24] → t.shaReq = some e ∧
        (s.shaUp = true → (p.sha256 e)[0].toNat / 2 ^ (8 - n / 3) ≠ splitChecksum xs →
          engineStep p t = failed s .decode ⟨.checksumMismatch, 0⟩) ∧
        (s.shaUp = true → (p.sha256 e)[0].toNat / 2 ^ (8 - n / 3) = splitChecksum xs →
          ∃ x y, engineStep p t =
              { completed s 0x02 none with
                idx := x, wordCnt := BitVec.ofNat 32 n, ent := y, entLen := BitVec.ofNat 32 (4 * n / 3) } ∧
            x.toList = xs.map (BitVec.ofNat 32) ++ List.replicate (24 - n) 0 ∧
            y.toList = e ++ List.replicate (32 - 4 * n / 3) 0))

/-- 43_codec.md R166: CHECK completes with ERR = 0, writes VALID only, and VALID = 1 exactly when DECODE from the same state
would complete with ERR = 0; its digest request is DECODE's, and only when there is one does it need the unit. -/
def Obligations.CheckResult : Prop :=
  ∀ s : State, s.phase = .idle → ∃ t d, exec .check s = .next t ∧ exec .decode s = .next d ∧ t.shaReq = d.shaReq ∧
    ((t.shaReq = none ∨ s.shaUp = true) →
      ∃ b, engineStep Config.platform t = { completed s 0x03 none with valid := b } ∧
        (b = true ↔ (engineStep Config.platform d).err = none))

/-- 45_housekeeping.md R200, R201: CLEAR zeroes the five buffers and the four length registers and leaves the rest. -/
def Obligations.ClearResult : Prop :=
  ∀ s : State, s.phase = .idle → ∃ t, exec .clear s = .next t ∧
    engineStep Config.platform t =
      { completed s 0x09 none with
        ent := Vector.replicate 32 0, entLen := 0, idx := Vector.replicate 24 0, wordCnt := 0,
        mnem := Vector.replicate 1024 0, mnemLen := 0, pass := Vector.replicate 256 0, passLen := 0,
        seed := Vector.replicate 64 0 }

/-! ### DERIVE -/

/-- 44_seed.md R183, 10_state.md R51, R52: DERIVE on lengths in range: after 2048 iterate steps and one complete step SEED
is the exclusive or of the chain of 2048 HMAC512 answers, and nothing else but the status and ITER changed. The block
counter and the chaining are those the rules take from general knowledge of PBKDF2 (log 18). -/
def Obligations.DeriveResult : Prop :=
  ∀ s : State, s.phase = .idle → s.hmacUp = true → s.mnemLen.toNat ≤ 1024 → s.passLen.toNat ≤ 256 →
    let key := s.mnem.toList.take s.mnemLen.toNat
    let m1 : Bytes := [0x6D, 0x6E, 0x65, 0x6D, 0x6F, 0x6E, 0x69, 0x63] ++ s.pass.toList.take s.passLen.toNat ++
      [0x00, 0x00, 0x00, 0x01]
    ∃ (t : State) (u : Nat → Vector Byte 64) (x : Vector Byte 64), exec .derive s = .next t ∧
      u 1 = Config.hmac512 key m1 ∧ (∀ i, 1 ≤ i → i < 2048 → u (i + 1) = Config.hmac512 key (u i).toList) ∧
      (∀ b (h : b < 64), x[b] = (List.range 2048).foldl (fun acc i => acc ^^^ (u (i + 1))[b]) 0) ∧
      engineSteps Config.platform 2049 t = { completed s 0x04 none with seed := x, iter := 2048 }

/-- 44_seed.md R183, 60_exceptions.md R213: the length tests of DERIVE, MNEM_LEN first; SEED is zeroed, ITER stays 0. -/
def Obligations.DeriveBadLength : Prop :=
  ∀ s : State, s.phase = .idle →
    (1024 < s.mnemLen.toNat → ∃ t, exec .derive s = .next t ∧
      engineStep Config.platform t =
        { completed s 0x04 (some ⟨.badLength, 0x02C⟩) with seed := Vector.replicate 64 0 }) ∧
    (s.mnemLen.toNat ≤ 1024 → 256 < s.passLen.toNat → ∃ t, exec .derive s = .next t ∧
      engineStep Config.platform t =
        { completed s 0x04 (some ⟨.badLength, 0x030⟩) with seed := Vector.replicate 64 0 })

/-- 44_seed.md R184, 10_state.md R51: one iterate step, with the request of the first call and of every later one. -/
def Obligations.IterateStep : Prop :=
  ∀ (p : Platform) (s : State), s.phase = .busy → s.pend = .derive → s.iter.toNat < 2048 → s.hmacUp = true →
    let key := s.mnem.toList.take s.mnemLen.toNat
    let m1 : Bytes := [0x6D, 0x6E, 0x65, 0x6D, 0x6F, 0x6E, 0x69, 0x63] ++ s.pass.toList.take s.passLen.toNat ++
      [0x00, 0x00, 0x00, 0x01]
    let answer := if s.iter = 0 then p.hmac512 key m1 else p.hmac512 key s.u.toList
    ∃ x n, engineStep p s = { s with u := answer, t := x, iter := n } ∧ n.toNat = s.iter.toNat + 1 ∧
      ∀ b (h : b < 64), x[b] = s.t[b] ^^^ answer[b]

/-- 44_seed.md R187: no turn of the engine ends a DERIVE, shows T or changes SEED before 2048 calls are made. -/
def Obligations.NoEarlySeed : Prop :=
  ∀ (p : Platform) (s : State) (k : Nat), s.phase = .busy → s.pend = .derive → s.hmacUp = true →
    s.iter.toNat + k ≤ 2048 →
    (engineSteps p k s).phase = .busy ∧ (engineSteps p k s).pend = .derive ∧ SameData (engineSteps p k s) s ∧
    (engineSteps p k s).iter.toNat = s.iter.toNat + k ∧ ∀ w, w < 16 → readAt p (engineSteps p k s) (0x100 + 4 * w) = 0

/-- 10_state.md R52, 70_reset_and_hazards.md R250: every command that is accepted ends after finitely many turns of the
engine when the units it asks answer: after 2049 for a DERIVE with lengths in range, after one otherwise. -/
def Obligations.EveryCommandEnds : Prop :=
  ∀ (i : Instr) (s : State), s.phase = .idle →
    let runs := i = .derive ∧ s.mnemLen.toNat ≤ 1024 ∧ s.passLen.toNat ≤ 256
    let k := if runs then 2049 else 1
    ∃ t, exec i s = .next t ∧ ((t.shaReq = none ∨ s.shaUp = true) → (runs → s.hmacUp = true) →
      (engineSteps Config.platform k t).phase = .idle ∧ (engineSteps Config.platform k t).done = true ∧
      (engineSteps Config.platform k t).op = opcode i ∧ HiddenZero (engineSteps Config.platform k t) ∧
      ∀ j, j < k → (engineSteps Config.platform j t).phase = .busy)

/-! ### Relations between the commands -/

/-- 42_bitpacker.md R147: UNPACK of what PACK wrote gives the entropy back, on every platform and from any state that holds
those indices; and PACK of what UNPACK recovered gives the indices back. -/
def Obligations.PackUnpackRoundTrip : Prop :=
  (∀ (p : Platform) (s s' : State), Ready s → Ready s' → (oneShot p .pack s).err = none →
    s'.wordCnt = (oneShot p .pack s).wordCnt → s'.idx = (oneShot p .pack s).idx →
    (oneShot p .unpack s').err = none ∧ (oneShot p .unpack s').entLen = s.entLen ∧
    entropy (oneShot p .unpack s') = entropy s) ∧
  (∀ (p : Platform) (s s' : State), Ready s → Ready s' → (oneShot p .unpack s).err = none →
    s'.entLen = (oneShot p .unpack s).entLen → s'.ent = (oneShot p .unpack s).ent →
    (oneShot p .pack s').err = none ∧ (oneShot p .pack s').wordCnt = s.wordCnt ∧
    indices (oneShot p .pack s') = indices s)

/-- 42_bitpacker.md R148: for a valid count exactly one index list passes the checksum for each entropy value. -/
def Obligations.OneIndexListPerEntropy : Prop :=
  ∀ (p : Platform) (n : Nat) (e : Bytes), n ∈ [12, 15, 18, 21, 24] → e.length = 4 * n / 3 →
    ∃! xs : List Nat, xs.length = n ∧ (∀ x ∈ xs, x < 2048) ∧ splitEntropy xs = e ∧
      (p.sha256 e)[0].toNat / 2 ^ (8 - n / 3) = splitChecksum xs

/-- 43_codec.md R161: ENCODE succeeds exactly when PACK and then LOOKUP do, with the same four outputs. On failure ENCODE
tests the wordlist before the entropy length and zeroes all four outputs, and the sequence reports the entropy length
first. -/
def Obligations.EncodeIsPackThenLookup : Prop :=
  ∀ (p : Platform) (s : State), Ready s →
    let a := oneShot p .pack s
    let b := oneShot p .lookup a
    let c := oneShot p .encode s
    (c.err = none ↔ a.err = none ∧ b.err = none) ∧
    (c.err = none → c.idx = b.idx ∧ c.wordCnt = b.wordCnt ∧ c.mnem = b.mnem ∧ c.mnemLen = b.mnemLen) ∧
    (c.err ≠ none → c.idx = Vector.replicate 24 0 ∧ c.wordCnt = 0 ∧ c.mnem = Vector.replicate 1024 0 ∧ c.mnemLen = 0) ∧
    ((p.romBits (resolveLid s.lang)).toNat ≠ 11 → c.err = some .invalidWordlist) ∧
    (s.entLen.toNat ∉ [16, 20, 24, 28, 32] → a.err = some .invalidEntropyLength)

/-- 43_codec.md R164: DECODE succeeds exactly when SEARCH and then UNPACK do, with the same four outputs; on failure the
command that fails reports the same kind and information, a failed UNPACK leaves what SEARCH wrote and a failed DECODE
zeroes it. -/
def Obligations.DecodeIsSearchThenUnpack : Prop :=
  ∀ (p : Platform) (s : State), Ready s →
    let a := oneShot p .search s
    let b := oneShot p .unpack a
    let c := oneShot p .decode s
    (c.err = none ↔ a.err = none ∧ b.err = none) ∧
    (c.err = none → c.idx = b.idx ∧ c.wordCnt = b.wordCnt ∧ c.ent = b.ent ∧ c.entLen = b.entLen) ∧
    (a.err ≠ none → c.err = a.err ∧ c.errInfo = a.errInfo) ∧
    (a.err = none → b.err ≠ none → c.err = b.err ∧ c.errInfo = b.errInfo ∧ b.idx = a.idx ∧ b.wordCnt = a.wordCnt) ∧
    (c.err ≠ none → c.idx = Vector.replicate 24 0 ∧ c.wordCnt = 0 ∧ c.ent = Vector.replicate 32 0 ∧ c.entLen = 0)

/-- 43_codec.md R168: under the ROM invariants DECODE of what ENCODE wrote, with the same LANG, gives the entropy back.
Conditions (a), (c) and (d) of 20_memory.md R74 are in the platform's type; (b) is the premise. -/
def Obligations.StringRoundTrip : Prop :=
  ∀ (p : Platform) (s s' : State), Ready s → Ready s' → (p.romBits (resolveLid s.lang)).toNat = 11 →
    RomUnique p (resolveLid s.lang) → s.entLen.toNat ∈ [16, 20, 24, 28, 32] →
    s'.lang = s.lang → s'.mnem = (oneShot p .encode s).mnem → s'.mnemLen = (oneShot p .encode s).mnemLen →
    (oneShot p .encode s).err = none ∧ (oneShot p .decode s').err = none ∧
    (oneShot p .decode s').entLen = s.entLen ∧ entropy (oneShot p .decode s') = entropy s

/-- 00_scope.md R13, 10_state.md R53: a command's outcome and its digest request depend on its inputs alone, and bytes of a
buffer beyond its length are no input (70_reset_and_hazards.md R248 (a)). -/
def Obligations.OutcomeDependsOnInputsOnly : Prop :=
  ∀ (p : Platform) (i : Instr) (s s' : State), s.phase = .idle → s'.phase = .idle → SameInputs s s' i →
    ∃ t t', execOn p i s = .next t ∧ execOn p i s' = .next t' ∧ t.pend = t'.pend ∧ t.shaReq = t'.shaReq

/-- 44_seed.md R186: two derivations with the same mnemonic bytes and passphrase bytes and the same HMAC512 end with the
same SEED, whatever else the two states and the two platforms hold. -/
def Obligations.DeriveIsDeterministic : Prop :=
  ∀ (p p' : Platform) (s s' : State), p.hmac512 = p'.hmac512 → s.phase = .idle → s'.phase = .idle →
    s.hmacUp = true → s'.hmacUp = true → s.mnemLen.toNat ≤ 1024 → s.passLen.toNat ≤ 256 → SameInputs s s' .derive →
    ∃ t t', execOn p .derive s = .next t ∧ execOn p' .derive s' = .next t' ∧
      (engineSteps p 2049 t).seed = (engineSteps p' 2049 t').seed ∧ (engineSteps p 2049 t).err = none ∧
      (engineSteps p' 2049 t').err = none

/-! ### The host's registers -/

/-- 10_state.md R24, R29, 60_exceptions.md R210: the layout of STATUS with the codes of the error kinds, and what a write to
it does in any phase. -/
def Obligations.StatusRegister : Prop :=
  ∀ (p : Platform) (s : State) (v : Word),
    let code :=
      match s.err with
      | none => 0
      | some .invalidWordlist => 1
      | some .invalidEntropyLength => 2
      | some .invalidWord => 3
      | some .invalidMnemonicLength => 4
      | some .checksumMismatch => 5
      | some .illegalCommand => 6
      | some .badLength => 7
      | some .badIndex => 8
    (readAt p s 0x008).toNat =
      (if s.phase = .busy then 1 else 0) + (if s.done then 2 else 0) + (if s.valid then 4 else 0) +
      (if s.haz then 8 else 0) + 16 * code + 256 * s.op.toNat ∧
    writeAt s 0x008 v =
      { s with done := if v.getLsbD 1 then false else s.done, haz := if v.getLsbD 3 then false else s.haz }

/-- 10_state.md R31, 60_exceptions.md R220, R221: CTRL holds IE alone, in any phase, and `irq` is DONE and IE. -/
def Obligations.ControlRegisterAndInterrupt : Prop :=
  ∀ (p : Platform) (s : State) (v : Word),
    writeAt s 0x00C v = { s with ie := v.getLsbD 0 } ∧
    (readAt p s 0x00C).toNat = (if s.ie then 1 else 0) ∧ (readAt p (writeAt s 0x00C v) 0x00C).toNat = v.toNat % 2 ∧
    irq (writeAt s 0x00C v) = (s.done && v.getLsbD 0) ∧ irq (writeAt s 0x008 0x00000002) = false ∧
    (∀ i t, s.phase = .idle → execOn p i s = .next t → irq t = false) ∧
    (completeEnabled s = true → irq (engineStep p s) = s.ie) ∧ State.reset.ie = false

/-- 20_memory.md R66, 70_reset_and_hazards.md R247: the buffer words while IDLE and while BUSY. -/
def Obligations.BufferReads : Prop :=
  ∀ (p : Platform) (s : State),
    (s.phase = .idle →
      (∀ w, w < 8 → (readAt p s (0x040 + 4 * w)).toNat =
        (s.ent[4 * w]?.getD 0).toNat + 2 ^ 8 * (s.ent[4 * w + 1]?.getD 0).toNat +
          2 ^ 16 * (s.ent[4 * w + 2]?.getD 0).toNat + 2 ^ 24 * (s.ent[4 * w + 3]?.getD 0).toNat) ∧
      (∀ w, w < 16 → (readAt p s (0x100 + 4 * w)).toNat =
        (s.seed[4 * w]?.getD 0).toNat + 2 ^ 8 * (s.seed[4 * w + 1]?.getD 0).toNat +
          2 ^ 16 * (s.seed[4 * w + 2]?.getD 0).toNat + 2 ^ 24 * (s.seed[4 * w + 3]?.getD 0).toNat) ∧
      (∀ w, w < 64 → (readAt p s (0x200 + 4 * w)).toNat =
        (s.pass[4 * w]?.getD 0).toNat + 2 ^ 8 * (s.pass[4 * w + 1]?.getD 0).toNat +
          2 ^ 16 * (s.pass[4 * w + 2]?.getD 0).toNat + 2 ^ 24 * (s.pass[4 * w + 3]?.getD 0).toNat) ∧
      (∀ w, w < 256 → (readAt p s (0x400 + 4 * w)).toNat =
        (s.mnem[4 * w]?.getD 0).toNat + 2 ^ 8 * (s.mnem[4 * w + 1]?.getD 0).toNat +
          2 ^ 16 * (s.mnem[4 * w + 2]?.getD 0).toNat + 2 ^ 24 * (s.mnem[4 * w + 3]?.getD 0).toNat) ∧
      (∀ i, (h : i < 24) → readAt p s (0x080 + 4 * i) = s.idx[i])) ∧
    (s.phase = .busy →
      (∀ w, w < 8 → readAt p s (0x040 + 4 * w) = 0) ∧ (∀ w, w < 16 → readAt p s (0x100 + 4 * w) = 0) ∧
      (∀ w, w < 64 → readAt p s (0x200 + 4 * w) = 0) ∧ (∀ w, w < 256 → readAt p s (0x400 + 4 * w) = 0) ∧
      (∀ i, i < 24 → readAt p s (0x080 + 4 * i) = 0)) ∧
    readAt p s 0x010 = s.lang ∧ readAt p s 0x020 = s.entLen ∧ readAt p s 0x028 = s.wordCnt ∧
    readAt p s 0x02C = s.mnemLen ∧ readAt p s 0x030 = s.passLen ∧ (readAt p s 0x034).toNat = s.iter.toNat ∧
    readAt p s 0x038 = s.errInfo

/-- 20_memory.md R66, 10_state.md R32 to R47: what a host write stores while IDLE, byte by byte, and its frame. -/
def Obligations.BufferWrites : Prop :=
  ∀ (s : State) (v : Word), s.phase = .idle →
    (∀ w, w < 8 → ∃ x, writeAt s (0x040 + 4 * w) v = { s with ent := x } ∧
      ∀ k (h : k < 32), x[k] = if k / 4 = w then v.extractLsb' (8 * (k % 4)) 8 else s.ent[k]) ∧
    (∀ w, w < 64 → ∃ x, writeAt s (0x200 + 4 * w) v = { s with pass := x } ∧
      ∀ k (h : k < 256), x[k] = if k / 4 = w then v.extractLsb' (8 * (k % 4)) 8 else s.pass[k]) ∧
    (∀ w, w < 256 → ∃ x, writeAt s (0x400 + 4 * w) v = { s with mnem := x } ∧
      ∀ k (h : k < 1024), x[k] = if k / 4 = w then v.extractLsb' (8 * (k % 4)) 8 else s.mnem[k]) ∧
    (∀ i, i < 24 → ∃ x, writeAt s (0x080 + 4 * i) v = { s with idx := x } ∧
      ∀ k (h : k < 24), x[k] = if k = i then v else s.idx[k]) ∧
    writeAt s 0x010 v = { s with lang := v } ∧ writeAt s 0x020 v = { s with entLen := v } ∧
    writeAt s 0x028 v = { s with wordCnt := v } ∧ writeAt s 0x02C v = { s with mnemLen := v } ∧
    writeAt s 0x030 v = { s with passLen := v }

/-- 70_reset_and_hazards.md R249: a value written while IDLE to a register or buffer word the host may write is the value
the next read of it returns. -/
def Obligations.WriteThenRead : Prop :=
  ∀ (p : Platform) (s : State) (off : Nat) (v : Word), s.phase = .idle → off % 4 = 0 →
    (off ∈ [0x010, 0x020, 0x028, 0x02C, 0x030] ∨ (0x040 ≤ off ∧ off < 0x060) ∨ (0x080 ≤ off ∧ off < 0x0E0) ∨
      (0x200 ≤ off ∧ off < 0x300) ∨ (0x400 ≤ off ∧ off < 0x800)) →
    readAt p (writeAt s off v) off = v

/-- 70_reset_and_hazards.md R246: writes while BUSY, at every offset but CMD (CommandWhileBusyIsDropped says that one). -/
def Obligations.WritesWhileBusy : Prop :=
  ∀ (s : State) (off : Nat) (v : Word), s.phase = .busy → off % 4 = 0 → off < 0x800 →
    ((off ∈ [0x010, 0x020, 0x028, 0x02C, 0x030] ∨ (0x040 ≤ off ∧ off < 0x060) ∨ (0x080 ≤ off ∧ off < 0x0E0) ∨
      (0x200 ≤ off ∧ off < 0x300) ∨ 0x400 ≤ off) → writeAt s off v = { s with haz := true }) ∧
    (off = 0x008 → writeAt s off v = { s with done := s.done && !v.getLsbD 1, haz := s.haz && !v.getLsbD 3 }) ∧
    (off = 0x00C → writeAt s off v = { s with ie := v.getLsbD 0 })

/-- 20_memory.md R64, 10_state.md R21: reserved offsets read 0, and read-only and reserved offsets ignore writes in any
phase. -/
def Obligations.ReservedAndReadOnlyOffsets : Prop :=
  ∀ (p : Platform) (s : State) (off : Nat) (v : Word), off % 4 = 0 →
    ((off = 0x03C ∨ (0x0E0 ≤ off ∧ off < 0x100) ∨ (0x140 ≤ off ∧ off < 0x200) ∨ (0x300 ≤ off ∧ off < 0x400)) →
      readAt p s off = 0 ∧ writeAt s off v = s) ∧
    ((off ∈ [0x000, 0x014, 0x018, 0x01C, 0x024, 0x034, 0x038] ∨ (0x060 ≤ off ∧ off < 0x080) ∨
      (0x100 ≤ off ∧ off < 0x140)) → writeAt s off v = s) ∧
    readAt p s 0x000 = 0x45434201 ∧ readAt p s 0x004 = 0

/-- 20_memory.md R69: a host read changes nothing of ECBP; the value stands on the bus (the model's own field, log 5). -/
def Obligations.ReadsHaveNoSideEffect : Prop :=
  ∀ (p : Platform) (s s' : State) (rest : List Event) (off off' : Nat), off % 4 = 0 → off < 2048 →
    s.inputs = .read ⟨off, 4⟩ :: rest → stepOn p s = .next s' →
    s'.rdata = some (readAt p s off) ∧ readAt p s' off' = readAt p s off' ∧
    { s' with rdata := s.rdata, inputs := s.inputs } = s

/-! ### Whole-machine rules -/

/-- 10_state.md R48, R49, R50, R27, R41, R42, R53: the invariant of the engine and its flags holds after reset. -/
def Obligations.InvariantAfterReset : Prop := Inv State.reset

/-- 10_state.md R48, R49, R50, R27, R41, R42, R53: every step keeps the invariant of the engine and its flags, from every
state that has it. -/
def Obligations.EveryStepKeepsTheInvariant : Prop :=
  ∀ (p : Platform) (s s' : State), Inv s → stepOn p s = .next s' → Inv s'

/-- 44_seed.md R184: every step keeps the chain of a running DERIVE: after `k` calls U is `U[k]` and T the exclusive or of
the first `k`. -/
def Obligations.EveryStepKeepsTheChain : Prop :=
  ∀ (p : Platform) (s s' : State), Inv s → ChainInv p s → stepOn p s = .next s' → ChainInv p s'

/-- 10_state.md R49: the engine goes from IDLE to BUSY only by a host write to CMD, and from BUSY to IDLE only by a complete
step or reset. -/
def Obligations.PhaseTransitions : Prop :=
  ∀ (p : Platform) (s s' : State), stepOn p s = .next s' →
    (s.phase = .idle → s'.phase = .busy → ∃ v rest, s.inputs = .write ⟨0x004, 4⟩ v :: rest ∧ s'.cmdw = v) ∧
    (s.phase = .busy → s'.phase = .idle →
      (∃ rest, s.inputs = .reset :: rest) ∨
        (completeEnabled s = true ∧ (s.inputs = [] ∨ ∃ rest, s.inputs = .engine :: rest)))

/-- 20_memory.md R70, R71, 10_state.md R52: while a command runs no step changes a buffer, a length register or LANG: all
outputs appear in the one complete step, or reset. -/
def Obligations.NoPartialResults : Prop :=
  ∀ (p : Platform) (s s' : State), s.phase = .busy → stepOn p s = .next s' → s'.phase = .busy →
    SameData s' s ∧ s'.cmdw = s.cmdw ∧ s'.op = s.op ∧ s'.pend = s.pend

/-- 10_state.md R45: SEED changes only when a DERIVE or a CLEAR completes, or by reset. -/
def Obligations.SeedIsWrittenByDeriveClearReset : Prop :=
  ∀ (p : Platform) (s s' : State), Inv s → stepOn p s = .next s' → s'.seed ≠ s.seed →
    (∃ rest, s.inputs = .reset :: rest) ∨
      (completeEnabled s = true ∧ s'.phase = .idle ∧ (s.cmdw = encode .derive ∨ s.cmdw = encode .clear))

/-- 10_state.md R28, with the offsets of 70_reset_and_hazards.md R246: HAZ after any step. It is set when a write is dropped
because the engine is BUSY, cleared by a write of 1 to bit 3 of STATUS and by reset, and kept by everything else, every
engine step among it; and no command reads it. -/
def Obligations.HazardFlag : Prop :=
  (∀ (p : Platform) (s s' : State), stepOn p s = .next s' →
    s'.haz =
      match s.inputs with
      | .reset :: _ => false
      | .write a v :: _ =>
        if a.addr = 0x008 then s.haz && !v.getLsbD 3
        else if s.phase = .busy ∧
            (a.addr ∈ [0x004, 0x010, 0x020, 0x028, 0x02C, 0x030] ∨ (0x040 ≤ a.addr ∧ a.addr < 0x060) ∨
              (0x080 ≤ a.addr ∧ a.addr < 0x0E0) ∨ (0x200 ≤ a.addr ∧ a.addr < 0x300) ∨ 0x400 ≤ a.addr) then true
        else s.haz
      | [] | .read _ :: _ | .engine :: _ | .units _ _ :: _ => s.haz) ∧
  (∀ (p : Platform) (i : Instr) (s : State) (b : Bool) (t t' : State), execOn p i s = .next t →
    execOn p i { s with haz := b } = .next t' → t.pend = t'.pend ∧ t.shaReq = t'.shaReq)

/-- 60_exceptions.md R212: which command can raise which kind. CHECK raises none (43_codec.md R166). -/
def Obligations.WhichCommandRaisesWhich : Prop :=
  ∀ (p : Platform) (i : Instr) (s t : State) (r : Raise), s.phase = .idle → execOn p i s = .next t →
    t.pend = .fail r →
    (r.kind = .invalidWordlist → i ∈ [.encode, .decode, .lookup, .search]) ∧
    (r.kind = .invalidEntropyLength → i ∈ [.encode, .pack]) ∧
    (r.kind = .invalidWord → i ∈ [.decode, .search]) ∧
    (r.kind = .invalidMnemonicLength → i ∈ [.decode, .unpack]) ∧
    (r.kind = .checksumMismatch → i ∈ [.decode, .unpack]) ∧
    r.kind ≠ .illegalCommand ∧
    (r.kind = .badLength → i ∈ [.decode, .derive, .lookup, .search]) ∧
    (r.kind = .badIndex → i ∈ [.unpack, .lookup])
end

