-- ==== Sys2Proof/Laws/Bits.lean ====
section
/-! SUPPORT. The small lemmas of the buffer and bit-stream operations of Machine/Bits.lean. -/

namespace Sys2Proof.Machine

@[simp] theorem padVec_toList {α : Type} (n : Nat) (z : α) (xs : List α) :
    (padVec n z xs).toList = (xs ++ List.replicate n z).take n := rfl

/-- Data that fits is followed by padding only. -/
theorem padVec_toList_of_le {α : Type} (n : Nat) (z : α) (xs : List α) (h : xs.length ≤ n) :
    (padVec n z xs).toList = xs ++ List.replicate (n - xs.length) z := by
  rw [padVec_toList, List.take_append, List.take_of_length_le h, List.take_replicate]
  congr 2
  omega

/-- What was written to a whole buffer is read back up to its length. -/
theorem take_padVec {α : Type} (n : Nat) (z : α) (xs : List α) (h : xs.length ≤ n) :
    (padVec n z xs).toList.take xs.length = xs := by
  rw [padVec_toList_of_le n z xs h, List.take_left]

@[simp] theorem xorVec_toList (a b : Vector Byte 64) :
    (xorVec a b).toList = List.zipWith (fun x y => x ^^^ y) a.toList b.toList := rfl

@[simp] theorem xorVec_getElem (a b : Vector Byte 64) (k : Nat) (h : k < 64) :
    (xorVec a b)[k] = a[k] ^^^ b[k] := by
  simp [xorVec]

theorem msbNat_lt (f : Nat → Nat) (hf : ∀ k, f k < 2) (n : Nat) : msbNat f n < 2 ^ n := by
  induction n with
  | zero => simp [msbNat]
  | succ n ih =>
    have := hf n
    simp only [msbNat]
    omega

theorem msbNat_congr (f g : Nat → Nat) (n : Nat) (h : ∀ k, k < n → f k = g k) : msbNat f n = msbNat g n := by
  induction n with
  | zero => rfl
  | succ n ih =>
    simp only [msbNat]
    rw [ih (fun k hk => h k (by omega)), h n (by omega)]

/-- A bit of a number read from a stream is the stream's bit. -/
theorem msbNat_div_mod (f : Nat → Nat) (hf : ∀ k, f k < 2) (n k : Nat) (h : k < n) :
    msbNat f n / 2 ^ (n - 1 - k) % 2 = f k := by
  induction n with
  | zero => omega
  | succ n ih =>
    simp only [msbNat]
    have hn := hf n
    rcases Nat.lt_or_ge k n with hk | hk
    · have e : n + 1 - 1 - k = (n - 1 - k) + 1 := by omega
      rw [e, Nat.pow_succ', ← Nat.div_div_eq_div_mul]
      have : (2 * msbNat f n + f n) / 2 = msbNat f n := by omega
      rw [this, ih hk]
    · have e : k = n := by omega
      subst e
      simp
      omega

theorem bit_lt (x : Bytes) (j : Nat) : bit x j < 2 := Nat.mod_lt _ (by omega)

theorem streamBit_lt (xs : List Nat) (j : Nat) : streamBit xs j < 2 := Nat.mod_lt _ (by omega)

/-- A group is an index (30_encoding.md R98). -/
theorem group_lt (x : Bytes) (i : Nat) : group x i < 2048 := msbNat_lt _ (fun _ => bit_lt _ _) 11

/-- A number is the number of its own bits. -/
theorem msbNat_bits (v n : Nat) (h : v < 2 ^ n) : msbNat (fun k => v / 2 ^ (n - 1 - k) % 2) n = v := by
  induction n generalizing v with
  | zero => simp [msbNat]; omega
  | succ n ih =>
    simp only [msbNat]
    have h2 : v / 2 < 2 ^ n := by omega
    have := ih (v / 2) h2
    have e : msbNat (fun k => v / 2 ^ (n + 1 - 1 - k) % 2) n = msbNat (fun k => v / 2 / 2 ^ (n - 1 - k) % 2) n := by
      refine msbNat_congr _ _ _ (fun k hk => ?_)
      have e : n + 1 - 1 - k = (n - 1 - k) + 1 := by omega
      rw [e, Nat.pow_succ', ← Nat.div_div_eq_div_mul]
    rw [e, this]
    simp
    omega

end Sys2Proof.Machine
end

