-- ==== Sys2Proof/Laws/Decode.lean ====
section
/-! SUPPORT. The small lemmas of the encoder and the decoder. -/

namespace Sys2Proof

@[simp] theorem decode_encode (i : Instr) : decode (encode i) = .ok i := by cases i <;> rfl

@[simp] theorem commandOf_encode (i : Instr) : commandOf (encode i) = some i := by cases i <;> decide

@[simp] theorem encode_low_byte (i : Instr) : (encode i).extractLsb' 0 8 = opcode i := by cases i <;> decide

theorem encode_injective {i j : Instr} (h : encode i = encode j) : i = j := by
  have := congrArg decode h
  simpa using this

/-- The opcode of a command decides it. -/
theorem instrOfOpcode_opcode {n : Nat} {i : Instr} (h : instrOfOpcode n = some i) : n = (opcode i).toNat := by
  unfold instrOfOpcode at h
  split at h <;> simp_all <;> subst h <;> decide

end Sys2Proof
end

