-- ==== Sys2Proof/Laws/State.lean ====
section
/-! SUPPORT. One lemma per field per shared update of State, all true by definition: later proofs never unfold a
record update. -/

namespace Sys2Proof.Machine

/-! ### accept -/

@[simp] theorem accept_phase (s : State) (v : Word) (l : Launch) : (accept s v l).phase = .busy := rfl
@[simp] theorem accept_cmdw (s : State) (v : Word) (l : Launch) : (accept s v l).cmdw = v := rfl
@[simp] theorem accept_pend (s : State) (v : Word) (l : Launch) : (accept s v l).pend = l.pend := rfl
@[simp] theorem accept_u (s : State) (v : Word) (l : Launch) : (accept s v l).u = s.u := rfl
@[simp] theorem accept_t (s : State) (v : Word) (l : Launch) : (accept s v l).t = s.t := rfl
@[simp] theorem accept_work (s : State) (v : Word) (l : Launch) : (accept s v l).work = l.work := rfl
@[simp] theorem accept_shaReq (s : State) (v : Word) (l : Launch) : (accept s v l).shaReq = l.shaReq := rfl
@[simp] theorem accept_done (s : State) (v : Word) (l : Launch) : (accept s v l).done = false := rfl
@[simp] theorem accept_valid (s : State) (v : Word) (l : Launch) : (accept s v l).valid = false := rfl
@[simp] theorem accept_haz (s : State) (v : Word) (l : Launch) : (accept s v l).haz = s.haz := rfl
@[simp] theorem accept_err (s : State) (v : Word) (l : Launch) : (accept s v l).err = none := rfl
@[simp] theorem accept_op (s : State) (v : Word) (l : Launch) : (accept s v l).op = v.extractLsb' 0 8 := rfl
@[simp] theorem accept_ie (s : State) (v : Word) (l : Launch) : (accept s v l).ie = s.ie := rfl
@[simp] theorem accept_lang (s : State) (v : Word) (l : Launch) : (accept s v l).lang = s.lang := rfl
@[simp] theorem accept_entLen (s : State) (v : Word) (l : Launch) : (accept s v l).entLen = s.entLen := rfl
@[simp] theorem accept_wordCnt (s : State) (v : Word) (l : Launch) : (accept s v l).wordCnt = s.wordCnt := rfl
@[simp] theorem accept_mnemLen (s : State) (v : Word) (l : Launch) : (accept s v l).mnemLen = s.mnemLen := rfl
@[simp] theorem accept_passLen (s : State) (v : Word) (l : Launch) : (accept s v l).passLen = s.passLen := rfl
@[simp] theorem accept_iter (s : State) (v : Word) (l : Launch) : (accept s v l).iter = 0 := rfl
@[simp] theorem accept_errInfo (s : State) (v : Word) (l : Launch) : (accept s v l).errInfo = 0 := rfl
@[simp] theorem accept_ent (s : State) (v : Word) (l : Launch) : (accept s v l).ent = s.ent := rfl
@[simp] theorem accept_idx (s : State) (v : Word) (l : Launch) : (accept s v l).idx = s.idx := rfl
@[simp] theorem accept_seed (s : State) (v : Word) (l : Launch) : (accept s v l).seed = s.seed := rfl
@[simp] theorem accept_pass (s : State) (v : Word) (l : Launch) : (accept s v l).pass = s.pass := rfl
@[simp] theorem accept_mnem (s : State) (v : Word) (l : Launch) : (accept s v l).mnem = s.mnem := rfl
@[simp] theorem accept_rdata (s : State) (v : Word) (l : Launch) : (accept s v l).rdata = s.rdata := rfl
@[simp] theorem accept_shaUp (s : State) (v : Word) (l : Launch) : (accept s v l).shaUp = s.shaUp := rfl
@[simp] theorem accept_hmacUp (s : State) (v : Word) (l : Launch) : (accept s v l).hmacUp = s.hmacUp := rfl
@[simp] theorem accept_inputs (s : State) (v : Word) (l : Launch) : (accept s v l).inputs = s.inputs := rfl

/-! ### commit -/

@[simp] theorem commit_phase (s : State) (w : Writes) : (commit s w).phase = s.phase := rfl
@[simp] theorem commit_cmdw (s : State) (w : Writes) : (commit s w).cmdw = s.cmdw := rfl
@[simp] theorem commit_pend (s : State) (w : Writes) : (commit s w).pend = s.pend := rfl
@[simp] theorem commit_u (s : State) (w : Writes) : (commit s w).u = s.u := rfl
@[simp] theorem commit_t (s : State) (w : Writes) : (commit s w).t = s.t := rfl
@[simp] theorem commit_work (s : State) (w : Writes) : (commit s w).work = s.work := rfl
@[simp] theorem commit_shaReq (s : State) (w : Writes) : (commit s w).shaReq = s.shaReq := rfl
@[simp] theorem commit_done (s : State) (w : Writes) : (commit s w).done = s.done := rfl
@[simp] theorem commit_valid (s : State) (w : Writes) : (commit s w).valid = w.valid.getD s.valid := rfl
@[simp] theorem commit_haz (s : State) (w : Writes) : (commit s w).haz = s.haz := rfl
@[simp] theorem commit_err (s : State) (w : Writes) : (commit s w).err = s.err := rfl
@[simp] theorem commit_op (s : State) (w : Writes) : (commit s w).op = s.op := rfl
@[simp] theorem commit_ie (s : State) (w : Writes) : (commit s w).ie = s.ie := rfl
@[simp] theorem commit_lang (s : State) (w : Writes) : (commit s w).lang = s.lang := rfl
@[simp] theorem commit_entLen (s : State) (w : Writes) : (commit s w).entLen = w.entLen.getD s.entLen := rfl
@[simp] theorem commit_wordCnt (s : State) (w : Writes) : (commit s w).wordCnt = w.wordCnt.getD s.wordCnt := rfl
@[simp] theorem commit_mnemLen (s : State) (w : Writes) : (commit s w).mnemLen = w.mnemLen.getD s.mnemLen := rfl
@[simp] theorem commit_passLen (s : State) (w : Writes) : (commit s w).passLen = w.passLen.getD s.passLen := rfl
@[simp] theorem commit_iter (s : State) (w : Writes) : (commit s w).iter = s.iter := rfl
@[simp] theorem commit_errInfo (s : State) (w : Writes) : (commit s w).errInfo = s.errInfo := rfl
@[simp] theorem commit_ent (s : State) (w : Writes) : (commit s w).ent = w.ent.getD s.ent := rfl
@[simp] theorem commit_idx (s : State) (w : Writes) : (commit s w).idx = w.idx.getD s.idx := rfl
@[simp] theorem commit_seed (s : State) (w : Writes) : (commit s w).seed = w.seed.getD s.seed := rfl
@[simp] theorem commit_pass (s : State) (w : Writes) : (commit s w).pass = w.pass.getD s.pass := rfl
@[simp] theorem commit_mnem (s : State) (w : Writes) : (commit s w).mnem = w.mnem.getD s.mnem := rfl
@[simp] theorem commit_rdata (s : State) (w : Writes) : (commit s w).rdata = s.rdata := rfl
@[simp] theorem commit_shaUp (s : State) (w : Writes) : (commit s w).shaUp = s.shaUp := rfl
@[simp] theorem commit_hmacUp (s : State) (w : Writes) : (commit s w).hmacUp = s.hmacUp := rfl
@[simp] theorem commit_inputs (s : State) (w : Writes) : (commit s w).inputs = s.inputs := rfl

/-! ### clearHidden -/

@[simp] theorem clearHidden_phase (s : State) : (clearHidden s).phase = s.phase := rfl
@[simp] theorem clearHidden_cmdw (s : State) : (clearHidden s).cmdw = 0 := rfl
@[simp] theorem clearHidden_pend (s : State) : (clearHidden s).pend = .none := rfl
@[simp] theorem clearHidden_u (s : State) : (clearHidden s).u = zeroSeed := rfl
@[simp] theorem clearHidden_t (s : State) : (clearHidden s).t = zeroSeed := rfl
@[simp] theorem clearHidden_work (s : State) : (clearHidden s).work = {} := rfl
@[simp] theorem clearHidden_shaReq (s : State) : (clearHidden s).shaReq = none := rfl
@[simp] theorem clearHidden_done (s : State) : (clearHidden s).done = s.done := rfl
@[simp] theorem clearHidden_valid (s : State) : (clearHidden s).valid = s.valid := rfl
@[simp] theorem clearHidden_haz (s : State) : (clearHidden s).haz = s.haz := rfl
@[simp] theorem clearHidden_err (s : State) : (clearHidden s).err = s.err := rfl
@[simp] theorem clearHidden_op (s : State) : (clearHidden s).op = s.op := rfl
@[simp] theorem clearHidden_ie (s : State) : (clearHidden s).ie = s.ie := rfl
@[simp] theorem clearHidden_lang (s : State) : (clearHidden s).lang = s.lang := rfl
@[simp] theorem clearHidden_entLen (s : State) : (clearHidden s).entLen = s.entLen := rfl
@[simp] theorem clearHidden_wordCnt (s : State) : (clearHidden s).wordCnt = s.wordCnt := rfl
@[simp] theorem clearHidden_mnemLen (s : State) : (clearHidden s).mnemLen = s.mnemLen := rfl
@[simp] theorem clearHidden_passLen (s : State) : (clearHidden s).passLen = s.passLen := rfl
@[simp] theorem clearHidden_iter (s : State) : (clearHidden s).iter = s.iter := rfl
@[simp] theorem clearHidden_errInfo (s : State) : (clearHidden s).errInfo = s.errInfo := rfl
@[simp] theorem clearHidden_ent (s : State) : (clearHidden s).ent = s.ent := rfl
@[simp] theorem clearHidden_idx (s : State) : (clearHidden s).idx = s.idx := rfl
@[simp] theorem clearHidden_seed (s : State) : (clearHidden s).seed = s.seed := rfl
@[simp] theorem clearHidden_pass (s : State) : (clearHidden s).pass = s.pass := rfl
@[simp] theorem clearHidden_mnem (s : State) : (clearHidden s).mnem = s.mnem := rfl
@[simp] theorem clearHidden_rdata (s : State) : (clearHidden s).rdata = s.rdata := rfl
@[simp] theorem clearHidden_shaUp (s : State) : (clearHidden s).shaUp = s.shaUp := rfl
@[simp] theorem clearHidden_hmacUp (s : State) : (clearHidden s).hmacUp = s.hmacUp := rfl
@[simp] theorem clearHidden_inputs (s : State) : (clearHidden s).inputs = s.inputs := rfl

/-! ### finish -/

@[simp] theorem finish_phase (s : State) : (finish s).phase = .idle := rfl
@[simp] theorem finish_cmdw (s : State) : (finish s).cmdw = 0 := rfl
@[simp] theorem finish_pend (s : State) : (finish s).pend = .none := rfl
@[simp] theorem finish_u (s : State) : (finish s).u = zeroSeed := rfl
@[simp] theorem finish_t (s : State) : (finish s).t = zeroSeed := rfl
@[simp] theorem finish_work (s : State) : (finish s).work = {} := rfl
@[simp] theorem finish_shaReq (s : State) : (finish s).shaReq = none := rfl
@[simp] theorem finish_done (s : State) : (finish s).done = true := rfl
@[simp] theorem finish_valid (s : State) : (finish s).valid = s.valid := rfl
@[simp] theorem finish_haz (s : State) : (finish s).haz = s.haz := rfl
@[simp] theorem finish_err (s : State) : (finish s).err = s.err := rfl
@[simp] theorem finish_op (s : State) : (finish s).op = s.op := rfl
@[simp] theorem finish_ie (s : State) : (finish s).ie = s.ie := rfl
@[simp] theorem finish_lang (s : State) : (finish s).lang = s.lang := rfl
@[simp] theorem finish_entLen (s : State) : (finish s).entLen = s.entLen := rfl
@[simp] theorem finish_wordCnt (s : State) : (finish s).wordCnt = s.wordCnt := rfl
@[simp] theorem finish_mnemLen (s : State) : (finish s).mnemLen = s.mnemLen := rfl
@[simp] theorem finish_passLen (s : State) : (finish s).passLen = s.passLen := rfl
@[simp] theorem finish_iter (s : State) : (finish s).iter = s.iter := rfl
@[simp] theorem finish_errInfo (s : State) : (finish s).errInfo = s.errInfo := rfl
@[simp] theorem finish_ent (s : State) : (finish s).ent = s.ent := rfl
@[simp] theorem finish_idx (s : State) : (finish s).idx = s.idx := rfl
@[simp] theorem finish_seed (s : State) : (finish s).seed = s.seed := rfl
@[simp] theorem finish_pass (s : State) : (finish s).pass = s.pass := rfl
@[simp] theorem finish_mnem (s : State) : (finish s).mnem = s.mnem := rfl
@[simp] theorem finish_rdata (s : State) : (finish s).rdata = s.rdata := rfl
@[simp] theorem finish_shaUp (s : State) : (finish s).shaUp = s.shaUp := rfl
@[simp] theorem finish_hmacUp (s : State) : (finish s).hmacUp = s.hmacUp := rfl
@[simp] theorem finish_inputs (s : State) : (finish s).inputs = s.inputs := rfl

/-! ### dropWrite -/

@[simp] theorem dropWrite_phase (s : State) : (dropWrite s).phase = s.phase := rfl
@[simp] theorem dropWrite_cmdw (s : State) : (dropWrite s).cmdw = s.cmdw := rfl
@[simp] theorem dropWrite_pend (s : State) : (dropWrite s).pend = s.pend := rfl
@[simp] theorem dropWrite_u (s : State) : (dropWrite s).u = s.u := rfl
@[simp] theorem dropWrite_t (s : State) : (dropWrite s).t = s.t := rfl
@[simp] theorem dropWrite_work (s : State) : (dropWrite s).work = s.work := rfl
@[simp] theorem dropWrite_shaReq (s : State) : (dropWrite s).shaReq = s.shaReq := rfl
@[simp] theorem dropWrite_done (s : State) : (dropWrite s).done = s.done := rfl
@[simp] theorem dropWrite_valid (s : State) : (dropWrite s).valid = s.valid := rfl
@[simp] theorem dropWrite_haz (s : State) : (dropWrite s).haz = true := rfl
@[simp] theorem dropWrite_err (s : State) : (dropWrite s).err = s.err := rfl
@[simp] theorem dropWrite_op (s : State) : (dropWrite s).op = s.op := rfl
@[simp] theorem dropWrite_ie (s : State) : (dropWrite s).ie = s.ie := rfl
@[simp] theorem dropWrite_lang (s : State) : (dropWrite s).lang = s.lang := rfl
@[simp] theorem dropWrite_entLen (s : State) : (dropWrite s).entLen = s.entLen := rfl
@[simp] theorem dropWrite_wordCnt (s : State) : (dropWrite s).wordCnt = s.wordCnt := rfl
@[simp] theorem dropWrite_mnemLen (s : State) : (dropWrite s).mnemLen = s.mnemLen := rfl
@[simp] theorem dropWrite_passLen (s : State) : (dropWrite s).passLen = s.passLen := rfl
@[simp] theorem dropWrite_iter (s : State) : (dropWrite s).iter = s.iter := rfl
@[simp] theorem dropWrite_errInfo (s : State) : (dropWrite s).errInfo = s.errInfo := rfl
@[simp] theorem dropWrite_ent (s : State) : (dropWrite s).ent = s.ent := rfl
@[simp] theorem dropWrite_idx (s : State) : (dropWrite s).idx = s.idx := rfl
@[simp] theorem dropWrite_seed (s : State) : (dropWrite s).seed = s.seed := rfl
@[simp] theorem dropWrite_pass (s : State) : (dropWrite s).pass = s.pass := rfl
@[simp] theorem dropWrite_mnem (s : State) : (dropWrite s).mnem = s.mnem := rfl
@[simp] theorem dropWrite_rdata (s : State) : (dropWrite s).rdata = s.rdata := rfl
@[simp] theorem dropWrite_shaUp (s : State) : (dropWrite s).shaUp = s.shaUp := rfl
@[simp] theorem dropWrite_hmacUp (s : State) : (dropWrite s).hmacUp = s.hmacUp := rfl
@[simp] theorem dropWrite_inputs (s : State) : (dropWrite s).inputs = s.inputs := rfl

/-! ### iterate -/

@[simp] theorem iterate_phase (p : Platform) (s : State) : (iterate p s).phase = s.phase := rfl
@[simp] theorem iterate_cmdw (p : Platform) (s : State) : (iterate p s).cmdw = s.cmdw := rfl
@[simp] theorem iterate_pend (p : Platform) (s : State) : (iterate p s).pend = s.pend := rfl
@[simp] theorem iterate_u (p : Platform) (s : State) : (iterate p s).u = p.hmac512 (hmacRequest s).1 (hmacRequest s).2 := rfl
@[simp] theorem iterate_t (p : Platform) (s : State) : (iterate p s).t = xorVec s.t (p.hmac512 (hmacRequest s).1 (hmacRequest s).2) := rfl
@[simp] theorem iterate_work (p : Platform) (s : State) : (iterate p s).work = s.work := rfl
@[simp] theorem iterate_shaReq (p : Platform) (s : State) : (iterate p s).shaReq = s.shaReq := rfl
@[simp] theorem iterate_done (p : Platform) (s : State) : (iterate p s).done = s.done := rfl
@[simp] theorem iterate_valid (p : Platform) (s : State) : (iterate p s).valid = s.valid := rfl
@[simp] theorem iterate_haz (p : Platform) (s : State) : (iterate p s).haz = s.haz := rfl
@[simp] theorem iterate_err (p : Platform) (s : State) : (iterate p s).err = s.err := rfl
@[simp] theorem iterate_op (p : Platform) (s : State) : (iterate p s).op = s.op := rfl
@[simp] theorem iterate_ie (p : Platform) (s : State) : (iterate p s).ie = s.ie := rfl
@[simp] theorem iterate_lang (p : Platform) (s : State) : (iterate p s).lang = s.lang := rfl
@[simp] theorem iterate_entLen (p : Platform) (s : State) : (iterate p s).entLen = s.entLen := rfl
@[simp] theorem iterate_wordCnt (p : Platform) (s : State) : (iterate p s).wordCnt = s.wordCnt := rfl
@[simp] theorem iterate_mnemLen (p : Platform) (s : State) : (iterate p s).mnemLen = s.mnemLen := rfl
@[simp] theorem iterate_passLen (p : Platform) (s : State) : (iterate p s).passLen = s.passLen := rfl
@[simp] theorem iterate_iter (p : Platform) (s : State) : (iterate p s).iter = s.iter + 1 := rfl
@[simp] theorem iterate_errInfo (p : Platform) (s : State) : (iterate p s).errInfo = s.errInfo := rfl
@[simp] theorem iterate_ent (p : Platform) (s : State) : (iterate p s).ent = s.ent := rfl
@[simp] theorem iterate_idx (p : Platform) (s : State) : (iterate p s).idx = s.idx := rfl
@[simp] theorem iterate_seed (p : Platform) (s : State) : (iterate p s).seed = s.seed := rfl
@[simp] theorem iterate_pass (p : Platform) (s : State) : (iterate p s).pass = s.pass := rfl
@[simp] theorem iterate_mnem (p : Platform) (s : State) : (iterate p s).mnem = s.mnem := rfl
@[simp] theorem iterate_rdata (p : Platform) (s : State) : (iterate p s).rdata = s.rdata := rfl
@[simp] theorem iterate_shaUp (p : Platform) (s : State) : (iterate p s).shaUp = s.shaUp := rfl
@[simp] theorem iterate_hmacUp (p : Platform) (s : State) : (iterate p s).hmacUp = s.hmacUp := rfl
@[simp] theorem iterate_inputs (p : Platform) (s : State) : (iterate p s).inputs = s.inputs := rfl

/-! ### clearHidden does nothing where the hidden state is zero -/

theorem clearHidden_of_hiddenZero (s : State) (h : HiddenZero s) : clearHidden s = s := by
  obtain ⟨h1, h2, h3, h4, h5, h6⟩ := h
  cases s
  simp_all [clearHidden]

theorem hiddenZero_clearHidden (s : State) : HiddenZero (clearHidden s) := ⟨rfl, rfl, rfl, rfl, rfl, rfl⟩

@[simp] theorem clearHidden_clearHidden (s : State) : clearHidden (clearHidden s) = clearHidden s := rfl

end Sys2Proof.Machine
end

