-- ==== Sys2Proof/Laws/Engine.lean ====
section
/-! SUPPORT. What each shared operation of the engine can do, said once: accept, complete, the engine's turn, and a
step (10_state.md R50 to R52). -/

namespace Sys2Proof.Machine

/-! ### Phase and accept -/

theorem busy_eq_true {s : State} : busy s = true ↔ s.phase = .busy := by simp [busy]

theorem busy_eq_false {s : State} : busy s = false ↔ s.phase = .idle := by
  cases h : s.phase <;> simp [busy, h]

theorem issue_of_idle {s : State} (h : s.phase = .idle) (v : Word) (l : Launch) : issue s v l = accept s v l := by
  simp [issue, busy_eq_false.2 h]

theorem issue_of_busy {s : State} (h : s.phase = .busy) (v : Word) (l : Launch) : issue s v l = dropWrite s := by
  simp [issue, busy_eq_true.2 h]

/-! ### The nine meanings as one accept step -/

/-- What the accept step of command `i` puts into hidden state. -/
def launchOf (p : Platform) (i : Instr) (s : State) : Launch :=
  match i with
  | .encode =>
    { pend := .ofBody (encodeBody p s), shaReq := encodeRequest p s, work := .ofRequest p (encodeRequest p s) }
  | .decode => { pend := .ofBody (decodeBody p s), shaReq := decodeRequest p s, work := decodeWork p s }
  | .check => { pend := .ofBody (checkBody p s), shaReq := decodeRequest p s, work := decodeWork p s }
  | .derive => deriveLaunch s
  | .pack => { pend := .ofBody (packBody p s), shaReq := packRequest s, work := .ofRequest p (packRequest s) }
  | .unpack =>
    { pend := .ofBody (unpackBody p s), shaReq := unpackRequest s, work := .ofRequest p (unpackRequest s) }
  | .lookup => { pend := .ofBody (lookupBody p s) }
  | .search => { pend := .ofBody (searchBody p s), work := { token := searchToken p s } }
  | .clear => { pend := .ofBody clearBody }

/-- The state a command is accepted in: a DERIVE that runs starts with U and T zero (44_seed.md R184). -/
def acceptBase (i : Instr) (s : State) : State := if i = .derive then clearChain s else s

theorem clearChain_of_busy {s : State} (h : s.phase = .busy) : clearChain s = s := by
  simp [clearChain, busy_eq_true.2 h]

theorem clearChain_of_idle {s : State} (h : s.phase = .idle) :
    clearChain s = if (deriveError s).isSome then s else { s with u := zeroSeed, t := zeroSeed } := by
  simp [clearChain, busy_eq_false.2 h]

@[simp] theorem clearChain_phase (s : State) : (clearChain s).phase = s.phase := by
  unfold clearChain; split <;> rfl

@[simp] theorem clearHidden_clearChain (s : State) : clearHidden (clearChain s) = clearHidden s := by
  unfold clearChain; split <;> rfl

@[simp] theorem acceptBase_phase (i : Instr) (s : State) : (acceptBase i s).phase = s.phase := by
  unfold acceptBase; split <;> simp

@[simp] theorem clearHidden_acceptBase (i : Instr) (s : State) : clearHidden (acceptBase i s) = clearHidden s := by
  unfold acceptBase; split <;> simp

/-- Every meaning is a write to CMD of its own word. -/
theorem execOn_eq_issue (p : Platform) (i : Instr) (s : State) :
    execOn p i s = .next (issue (acceptBase i s) (encode i) (launchOf p i s)) := by
  cases i <;> rfl

/-- `exec` is the meanings on the hardware's own platform. -/
theorem exec_eq_execOn (i : Instr) (s : State) : exec i s = execOn Config.platform i s := by cases i <;> rfl

theorem exec_funext : exec = execOn Config.platform := by
  funext i s
  exact exec_eq_execOn i s

/-- A step of the hardware is a step on its own platform. -/
theorem step_eq_stepOn (s : State) : step s = stepOn Config.platform s := by
  simp only [step, stepOn, exec_funext]

theorem execOn_of_idle {s : State} (h : s.phase = .idle) (p : Platform) (i : Instr) :
    execOn p i s = .next (accept (acceptBase i s) (encode i) (launchOf p i s)) := by
  rw [execOn_eq_issue, issue_of_idle (by simpa using h)]

theorem execOn_of_busy {s : State} (h : s.phase = .busy) (p : Platform) (i : Instr) :
    execOn p i s = .next (dropWrite s) := by
  rw [execOn_eq_issue, issue_of_busy (by simpa using h)]
  unfold acceptBase
  split <;> simp [clearChain_of_busy h]

/-- A command always answers a next state. -/
theorem execOn_next (p : Platform) (i : Instr) (s : State) : ∃ t, execOn p i s = .next t :=
  ⟨_, execOn_eq_issue p i s⟩

/-! ### The engine's turn -/

/-- What a turn of the engine can do. -/
theorem engineStep_cases (p : Platform) (s : State) :
    (iterateEnabled s = true ∧ engineStep p s = iterate p s) ∨
      (iterateEnabled s = false ∧ completeEnabled s = true ∧ engineStep p s = complete s) ∨
      (iterateEnabled s = false ∧ completeEnabled s = false ∧ engineStep p s = s) := by
  unfold engineStep
  cases iterateEnabled s <;> cases completeEnabled s <;> simp

theorem iterateEnabled_iff (s : State) : iterateEnabled s = true ↔
    s.phase = .busy ∧ s.pend = .derive ∧ s.iter.toNat < 2048 ∧ s.hmacUp = true := by
  simp [iterateEnabled, busy_eq_true, Config.iterTotal, and_assoc]

theorem engineStep_of_idle {s : State} (h : s.phase = .idle) (p : Platform) : engineStep p s = s := by
  simp [engineStep, iterateEnabled, completeEnabled, busy_eq_false.2 h]

theorem engineStep_of_iterate {s : State} (h : iterateEnabled s = true) (p : Platform) :
    engineStep p s = iterate p s := by
  simp [engineStep, h]

/-- A command with an outcome completes once its answers are in. -/
theorem engineStep_of_ok {s : State} {w : Writes} (hb : s.phase = .busy) (ha : answersIn s = true)
    (hp : s.pend = .ok w) (p : Platform) : engineStep p s = completeOk s w := by
  have h1 : iterateEnabled s = false := by simp [iterateEnabled, hp]
  simp [engineStep, h1, completeEnabled, complete, busy_eq_true.2 hb, ha, hp]

theorem engineStep_of_fail {s : State} {r : Raise} (hb : s.phase = .busy) (ha : answersIn s = true)
    (hp : s.pend = .fail r) (p : Platform) : engineStep p s = completeFail s r := by
  have h1 : iterateEnabled s = false := by simp [iterateEnabled, hp]
  simp [engineStep, h1, completeEnabled, complete, busy_eq_true.2 hb, ha, hp]

theorem engineStep_of_derived {s : State} (hb : s.phase = .busy) (ha : answersIn s = true) (hp : s.pend = .derive)
    (hi : 2048 ≤ s.iter.toNat) (p : Platform) : engineStep p s = completeOk s { seed := some s.t } := by
  have h1 : iterateEnabled s = false := by simp [iterateEnabled, Config.iterTotal]; omega
  simp [engineStep, h1, completeEnabled, complete, busy_eq_true.2 hb, ha, hp, Config.iterTotal, hi]

/-- Without the answers the engine waits (20_memory.md R78). -/
theorem engineStep_of_no_answer {s : State} (ha : answersIn s = false) (hp : s.pend ≠ .derive) (p : Platform) :
    engineStep p s = s := by
  have h1 : iterateEnabled s = false := by
    have : (s.pend == Pend.derive) = false := by simpa using hp
    simp [iterateEnabled, this]
  simp [engineStep, h1, completeEnabled, ha]

/-! ### A command from accept to complete -/

/-- The answers a command that is accepted waits for are in when the SHA256 unit answers. -/
theorem answersIn_of_sha {s : State} (h : s.shaUp = true) : answersIn s = true := by simp [answersIn, h]

theorem completeOk_accept (s : State) (i : Instr) (l : Launch) (w : Writes) :
    completeOk (accept (acceptBase i s) (encode i) l) w = commit (completed s (opcode i) none) w := by
  unfold acceptBase clearChain
  split
  · split <;> simp [completeOk, finish, accept, completed, clearHidden, commit]
  · simp [completeOk, finish, accept, completed, clearHidden, commit]

theorem completeFail_accept (s : State) (i : Instr) (l : Launch) (r : Raise) :
    completeFail (accept (acceptBase i s) (encode i) l) r = failed s i r := by
  unfold acceptBase clearChain
  split
  · split <;> simp [completeFail, finish, accept, completed, clearHidden, commit, failed, zeroOutputsOf]
  · simp [completeFail, finish, accept, completed, clearHidden, commit, failed, zeroOutputsOf]

@[simp] theorem acceptBase_shaUp (i : Instr) (s : State) : (acceptBase i s).shaUp = s.shaUp := by
  unfold acceptBase clearChain; split <;> (try split) <;> rfl

/-- The answers an accepted command waits for are in when it made no request or the unit answers (20_memory.md R78). -/
theorem answersIn_accept {s : State} {i : Instr} {l : Launch} (h : l.shaReq = none ∨ s.shaUp = true) :
    answersIn (accept (acceptBase i s) (encode i) l) = true := by
  rcases h with h | h <;> simp [answersIn, h]

theorem engineStep_accept_ok {s : State} {l : Launch} (hs : l.shaReq = none ∨ s.shaUp = true) (p : Platform)
    (i : Instr) (w : Writes) (hp : l.pend = .ok w) :
    engineStep p (accept (acceptBase i s) (encode i) l) = commit (completed s (opcode i) none) w := by
  rw [engineStep_of_ok (w := w) rfl (answersIn_accept hs) hp, completeOk_accept]

theorem engineStep_accept_fail {s : State} {l : Launch} (hs : l.shaReq = none ∨ s.shaUp = true) (p : Platform)
    (i : Instr) (r : Raise) (hp : l.pend = .fail r) :
    engineStep p (accept (acceptBase i s) (encode i) l) = failed s i r := by
  rw [engineStep_of_fail (r := r) rfl (answersIn_accept hs) hp, completeFail_accept]

/-- Accept and complete of a command whose body succeeds. -/
theorem oneShot_ok {s : State} (h : s.phase = .idle) {p : Platform} {i : Instr} {w : Writes}
    (hs : (launchOf p i s).shaReq = none ∨ s.shaUp = true) (hp : (launchOf p i s).pend = .ok w) :
    oneShot p i s = commit (completed s (opcode i) none) w := by
  rw [oneShot, execOn_of_idle h]
  exact engineStep_accept_ok hs p i w hp

/-- Accept and complete of a command whose body fails. -/
theorem oneShot_fail {s : State} (h : s.phase = .idle) {p : Platform} {i : Instr} {r : Raise}
    (hs : (launchOf p i s).shaReq = none ∨ s.shaUp = true) (hp : (launchOf p i s).pend = .fail r) :
    oneShot p i s = failed s i r := by
  rw [oneShot, execOn_of_idle h]
  exact engineStep_accept_fail hs p i r hp

/-- The engine stays out of a command's way: `oneShot` is what `execOn` and one turn give. -/
theorem oneShot_eq {s t : State} {p : Platform} {i : Instr} (h : execOn p i s = .next t) :
    oneShot p i s = engineStep p t := by simp [oneShot, h]

/-! ### A step -/

/-- What a step can do (20_memory.md R71). -/
theorem stepWith_cases (ex : Instr → State → Res) (p : Platform) (s : State) :
    (s.inputs = [] ∧ stepWith ex p s = .next (engineStep p s)) ∨
      ∃ e rest, s.inputs = e :: rest ∧ stepWith ex p s = stepEvent ex p { s with inputs := rest } e := by
  unfold stepWith
  cases h : s.inputs with
  | nil => exact .inl ⟨rfl, rfl⟩
  | cons e rest => exact .inr ⟨e, rest, rfl, rfl⟩

/-- What a host write to CMD can do on any platform: a command's accept step, an illegal word's, or neither. -/
theorem writeCmd_cases (p : Platform) (s : State) (v : Word) :
    (∃ i, decode v = .ok i ∧ writeCmd (execOn p) execIllegal s v = execOn p i s) ∨
      ∃ e, decode v = .error e ∧
        writeCmd (execOn p) execIllegal s v = .next (issue s v { pend := .fail ⟨.illegalCommand, v⟩ }) := by
  unfold writeCmd
  cases h : decode v with
  | ok i => exact .inl ⟨i, rfl, rfl⟩
  | error e => exact .inr ⟨e, rfl, rfl⟩

end Sys2Proof.Machine
end

