-- ==== Sys2Proof/Laws/Bus.lean ====
section
/-! SUPPORT. What a host read and a host write can do (20_memory.md R65, R66, 70_reset_and_hazards.md R246). -/

namespace Sys2Proof.Machine

theorem guardedWrite_of_idle {s : State} (h : s.phase = .idle) (s' : State) : guardedWrite s s' = s' := by
  simp [guardedWrite, busy_eq_false.2 h]

theorem guardedWrite_of_busy {s : State} (h : s.phase = .busy) (s' : State) : guardedWrite s s' = dropWrite s := by
  simp [guardedWrite, busy_eq_true.2 h]

theorem masked_of_idle {s : State} (h : s.phase = .idle) (v : Word) : masked s v = v := by
  simp [masked, busy_eq_false.2 h]

theorem masked_of_busy {s : State} (h : s.phase = .busy) (v : Word) : masked s v = 0 := by
  simp [masked, busy_eq_true.2 h]

/-! ### The address map -/

theorem slotOf_ent (w : Nat) (h : w < 8) : slotOf (0x040 + 4 * w) = .ent w := by
  simp [slotOf, show ¬ (0x040 + 4 * w < 0x040) by omega, show 0x040 + 4 * w < 0x060 by omega]

theorem slotOf_langTab (l : Nat) (h : l < 8) : slotOf (0x060 + 4 * l) = .langTab l := by
  simp [slotOf, show ¬ (0x060 + 4 * l < 0x040) by omega, show ¬ (0x060 + 4 * l < 0x060) by omega,
    show 0x060 + 4 * l < 0x080 by omega]

theorem slotOf_idx (i : Nat) (h : i < 24) : slotOf (0x080 + 4 * i) = .idx i := by
  simp [slotOf, show ¬ (0x080 + 4 * i < 0x040) by omega, show ¬ (0x080 + 4 * i < 0x060) by omega,
    show ¬ (0x080 + 4 * i < 0x080) by omega, show 0x080 + 4 * i < 0x0E0 by omega]

theorem slotOf_seed (w : Nat) (h : w < 16) : slotOf (0x100 + 4 * w) = .seed w := by
  simp [slotOf, show ¬ (0x100 + 4 * w < 0x040) by omega, show ¬ (0x100 + 4 * w < 0x060) by omega,
    show ¬ (0x100 + 4 * w < 0x080) by omega, show ¬ (0x100 + 4 * w < 0x0E0) by omega,
    show ¬ (0x100 + 4 * w < 0x100) by omega, show 0x100 + 4 * w < 0x140 by omega]

theorem slotOf_pass (w : Nat) (h : w < 64) : slotOf (0x200 + 4 * w) = .pass w := by
  simp [slotOf, show ¬ (0x200 + 4 * w < 0x040) by omega, show ¬ (0x200 + 4 * w < 0x060) by omega,
    show ¬ (0x200 + 4 * w < 0x080) by omega, show ¬ (0x200 + 4 * w < 0x0E0) by omega,
    show ¬ (0x200 + 4 * w < 0x100) by omega, show ¬ (0x200 + 4 * w < 0x140) by omega,
    show ¬ (0x200 + 4 * w < 0x200) by omega, show 0x200 + 4 * w < 0x300 by omega]

theorem slotOf_mnem (w : Nat) (h : w < 256) : slotOf (0x400 + 4 * w) = .mnem w := by
  simp [slotOf, show ¬ (0x400 + 4 * w < 0x040) by omega, show ¬ (0x400 + 4 * w < 0x060) by omega,
    show ¬ (0x400 + 4 * w < 0x080) by omega, show ¬ (0x400 + 4 * w < 0x0E0) by omega,
    show ¬ (0x400 + 4 * w < 0x100) by omega, show ¬ (0x400 + 4 * w < 0x140) by omega,
    show ¬ (0x400 + 4 * w < 0x200) by omega, show ¬ (0x400 + 4 * w < 0x300) by omega,
    show ¬ (0x400 + 4 * w < 0x400) by omega, show 0x400 + 4 * w < 0x800 by omega]

/-- The low block of the map, read from its table. -/
theorem slotOf_low (a : Nat) (h : a < 0x040) : slotOf a = registerSlot a := by simp [slotOf, h]

/-- CMD and STATUS stand at one offset each. -/
theorem slotOf_eq_cmd (a : Nat) : slotOf a = .cmd ↔ a = 0x004 := by
  constructor
  · intro h
    unfold slotOf at h
    split at h
    · unfold registerSlot at h
      split at h <;> simp_all
    · repeat (split at h <;> try (simp at h))
  · rintro rfl
    rfl

theorem slotOf_eq_status (a : Nat) : slotOf a = .status ↔ a = 0x008 := by
  constructor
  · intro h
    unfold slotOf at h
    split at h
    · unfold registerSlot at h
      split at h <;> simp_all
    · repeat (split at h <;> try (simp at h))
  · rintro rfl
    rfl

/-! ### What a write changes -/

/-- A host write never touches hidden state, the outcome fields, SEED or the events; what it may change besides HAZ, DONE
and IE it changes only while IDLE. -/
theorem writeSlot_frame (s : State) (v : Word) (slot : Slot) :
    let s' := writeSlot s v slot
    s'.phase = s.phase ∧ s'.cmdw = s.cmdw ∧ s'.pend = s.pend ∧ s'.u = s.u ∧ s'.t = s.t ∧ s'.work = s.work ∧
    s'.shaReq = s.shaReq ∧ s'.valid = s.valid ∧ s'.err = s.err ∧ s'.op = s.op ∧ s'.iter = s.iter ∧
    s'.errInfo = s.errInfo ∧ s'.seed = s.seed ∧ s'.rdata = s.rdata ∧ s'.shaUp = s.shaUp ∧ s'.hmacUp = s.hmacUp ∧
    s'.inputs = s.inputs ∧ (s.done = false → s'.done = false) ∧ (s.phase = .busy → SameData s' s) := by
  rcases h : s.phase with _ | _
  · cases slot <;> simp [writeSlot, guardedWrite_of_idle h, writeStatus, writeCtrl, h]
    simp_all
  · cases slot <;> simp [writeSlot, guardedWrite_of_busy h, writeStatus, writeCtrl, dropWrite, h] <;>
      first
        | exact ⟨rfl, rfl, rfl, rfl, rfl, rfl, rfl, rfl, rfl, rfl⟩
        | exact ⟨fun hd => by simp [hd], ⟨rfl, rfl, rfl, rfl, rfl, rfl, rfl, rfl, rfl, rfl⟩⟩

/-- HAZ is set by a dropped write and by nothing else (10_state.md R28). -/
theorem writeSlot_sets_haz {s : State} {v : Word} {slot : Slot} (h0 : s.haz = false)
    (h1 : (writeSlot s v slot).haz = true) : s.phase = .busy := by
  rcases h : s.phase with _ | _
  · exfalso
    cases slot <;> simp [writeSlot, guardedWrite_of_idle h, writeStatus, writeCtrl, h0] at h1
  · rfl

/-! ### Lanes -/

/-- A lane of a word that was written is the lane of the value (20_memory.md R66). -/
theorem setWordAt_getElem {n : Nat} (buf : Vector Byte n) (w : Nat) (v : Word) (k : Nat) (h : k < n) :
    (setWordAt buf w v)[k] = if k / 4 = w then v.extractLsb' (8 * (k % 4)) 8 else buf[k] := by
  simp only [setWordAt, lane, Vector.getElem_setIfInBounds]
  by_cases hk : k / 4 = w
  · have h4 : k % 4 = 0 ∨ k % 4 = 1 ∨ k % 4 = 2 ∨ k % 4 = 3 := by omega
    rcases h4 with h4 | h4 | h4 | h4 <;>
      simp [hk, h4, show ∀ a, (4 * w + a = k) ↔ (a = k % 4) by omega, show (4 * w = k) ↔ (0 = k % 4) by omega]
  · rw [if_neg (by omega), if_neg (by omega), if_neg (by omega), if_neg (by omega), if_neg hk]

/-- The word of four lanes, as a number (20_memory.md R66). -/
theorem wordAt_toNat {n : Nat} (buf : Vector Byte n) (w : Nat) (h : 4 * w + 3 < n) :
    (wordAt buf w).toNat = buf[4 * w].toNat + 2 ^ 8 * buf[4 * w + 1].toNat + 2 ^ 16 * buf[4 * w + 2].toNat +
      2 ^ 24 * buf[4 * w + 3].toNat := by
  have l0 := buf[4 * w].isLt
  have l1 := buf[4 * w + 1].isLt
  have l2 := buf[4 * w + 2].isLt
  simp only [wordAt, Vector.getElem?_eq_getElem h, Vector.getElem?_eq_getElem (show 4 * w + 2 < n by omega),
    Vector.getElem?_eq_getElem (show 4 * w + 1 < n by omega), Vector.getElem?_eq_getElem (show 4 * w < n by omega),
    Option.getD_some, BitVec.toNat_append]
  rw [Nat.shiftLeft_eq, Nat.shiftLeft_eq, Nat.shiftLeft_eq,
    ← Nat.shiftLeft_eq, ← Nat.shiftLeft_eq, ← Nat.shiftLeft_eq,
    ← Nat.shiftLeft_add_eq_or_of_lt l2, ← Nat.shiftLeft_add_eq_or_of_lt l1, ← Nat.shiftLeft_add_eq_or_of_lt l0]
  simp only [Nat.shiftLeft_eq]
  omega

end Sys2Proof.Machine
end

