-- ==== Sys2Proof/Laws/PerInstr.lean ====
section
/-! SUPPORT. The statements made for every command as syntax, one lemma per constructor. -/

namespace Sys2Proof.Laws.RoundTrip

/-- The command is well formed, its one word is well formed, and that word decodes to it (30_encoding.md R91). -/
abbrev Statement (i : Instr) : Prop :=
  i.wf = true ∧ commandWordWf (encode i) = true ∧ commandOf (encode i) = some i

theorem encode : Statement .encode := by decide
theorem decode : Statement .decode := by decide
theorem check : Statement .check := by decide
theorem derive : Statement .derive := by decide
theorem pack : Statement .pack := by decide
theorem unpack : Statement .unpack := by decide
theorem lookup : Statement .lookup := by decide
theorem search : Statement .search := by decide
theorem clear : Statement .clear := by decide

end Sys2Proof.Laws.RoundTrip
end

