-- ==== Sys2Proof/Laws/Wordlist.lean ====
section
/-! SUPPORT. The small lemmas of the wordlist engine: words, search, tokens (40_wordlist_rom.md). -/

namespace Sys2Proof.Machine

/-- A ROM word has 1 to 31 bytes and no byte of WS (20_memory.md R74 (c), (d)). -/
theorem romWord_ok (r : RomWord) : 1 ≤ r.bytes.length ∧ r.bytes.length ≤ 31 ∧ ∀ b ∈ r.bytes, isWs b = false := by
  have h := r.ok
  simp only [romEntryOk, Bool.and_eq_true, decide_eq_true_eq, List.all_eq_true, Bool.not_eq_true',
    Config.wordMax] at h
  exact ⟨h.1.1, h.1.2, fun b hb => h.2 b hb⟩

theorem word_of_lt (p : Platform) (l : LangId) (i : Nat) (h : i < 2048) : word p l i = (p.rom l ⟨i, h⟩).bytes := by
  simp [word, h]

theorem word_length_le (p : Platform) (l : LangId) (i : Nat) : (word p l i).length ≤ 31 := by
  by_cases h : i < 2048
  · rw [word_of_lt p l i h]
    exact (romWord_ok _).2.1
  · simp [word, h]

/-- What a successful search found. -/
theorem findWord_some {p : Platform} {l : LangId} {w : Bytes} {i : Nat} (h : findWord p l w = some i) :
    i < 2048 ∧ word p l i = w := by
  have h1 := List.find?_some h
  have h2 := List.mem_of_find?_eq_some h
  exact ⟨by simpa using h2, by simpa using h1⟩

/-- A token longer than 31 bytes matches nothing (40_wordlist_rom.md R118). -/
theorem findWord_of_long (p : Platform) (l : LangId) (w : Bytes) (h : 31 < w.length) : findWord p l w = none := by
  rcases hf : findWord p l w with _ | i
  · rfl
  · have := (findWord_some hf).2
    have := word_length_le p l i
    subst_vars
    omega

/-- The lookups of a token list succeed with `xs` exactly when each token is found (40_wordlist_rom.md R118). -/
theorem findTokens_eq_ok_iff (p : Platform) (l : LangId) (j : Nat) (ts : List Bytes) (xs : List Nat) :
    findTokens p l j ts = .ok xs ↔ ts.map (findWord p l) = xs.map some := by
  induction ts generalizing j xs with
  | nil => cases xs <;> simp [findTokens]
  | cons t rest ih =>
    simp only [findTokens]
    cases hf : findWord p l t with
    | none => cases xs <;> simp [hf]
    | some r =>
      cases hr : findTokens p l (j + 1) rest with
      | error e =>
        cases xs with
        | nil => simp
        | cons x xs =>
          simp only [List.map_cons, hf, List.cons.injEq, Option.some.injEq, reduceCtorEq, false_iff, not_and]
          intro _ h
          rw [(ih (j + 1) xs).2 h] at hr
          cases hr
      | ok rs =>
        have hrs := (ih (j + 1) rs).1 hr
        cases xs with
        | nil => simp
        | cons x xs =>
          have inj : rs.map some = xs.map some ↔ rs = xs :=
            ⟨fun h => List.map_inj_right (fun _ _ h => Option.some.inj h) |>.1 h, fun h => h ▸ rfl⟩
          simp only [Except.ok.injEq, List.cons.injEq, List.map_cons, hf, Option.some.injEq, hrs, inj]

/-- The lookups of a token list fail at the first unknown token, with its position (40_wordlist_rom.md R118). -/
theorem findTokens_error (p : Platform) (l : LangId) (j : Nat) (pre post : List Bytes) (w : Bytes)
    (hpre : ∀ v ∈ pre, findWord p l v ≠ none) (hw : findWord p l w = none) :
    findTokens p l j (pre ++ w :: post) = .error ⟨.invalidWord, BitVec.ofNat 32 (j + pre.length)⟩ := by
  induction pre generalizing j with
  | nil => simp [findTokens, hw]
  | cons t rest ih =>
    have ht := hpre t (by simp)
    have := ih (j + 1) (fun v hv => hpre v (by simp [hv]))
    cases hf : findWord p l t with
    | none => exact absurd hf ht
    | some r => simp [findTokens, hf, this, Nat.add_assoc, Nat.add_comm 1]

/-- A joined string of at most 24 words fits in MNEM (40_wordlist_rom.md R116). -/
theorem joinWords_length_le (ws : List Bytes) (h : ∀ w ∈ ws, w.length ≤ 31) :
    (joinWords ws).length ≤ 32 * ws.length - 1 := by
  induction ws with
  | nil => simp [joinWords]
  | cons w rest ih =>
    have hw := h w (by simp)
    have ih := ih (fun v hv => h v (by simp [hv]))
    cases rest with
    | nil => simp [joinWords]; omega
    | cons v rest =>
      simp only [joinWords, List.length_append, List.length_cons] at ih ⊢
      omega

end Sys2Proof.Machine
end

