-- ==== Sys2Proof/Tests/Slice0.lean ====
section
/-! SUPPORT. The model's own tests: words decoded, ill-formed terms refused, at most two small results per command, and one
witness for the hypotheses of every statement. Expected values come from 95_test_vectors.md (V-..., programs P...) or
from the rule named. -/

open Sys2Proof Sys2Proof.Machine

namespace Sys2Proof.Tests

-- one kernel evaluation at a time: each waits for those before it, and a thread that waits holds its stack
set_option Elab.async false

/-! ### Well-formedness: each check refuses an ill-formed term -/

/-- 30_encoding.md R94: a bit of 31:8 is set. -/
theorem test_wf_mbz : mbzOk 0x00000101 = false ∧ mbzOk 0x80000001 = false ∧ mbzOk 0x00000001 = true := by decide

/-- 30_encoding.md R94: opcodes below and above the nine. -/
theorem test_wf_opc : opcOk 0x00000000 = false ∧ opcOk 0x0000000A = false ∧ opcOk 0x000000FF = false ∧
    opcOk 0x00000009 = true := by decide

/-- 30_encoding.md R94. -/
theorem test_wf_commandWord : commandWordWf 0x00000101 = false ∧ commandWordWf 0x0000000A = false ∧
    commandWordWf 0x00000009 = true := by decide

/-- 20_memory.md R61: 32 bits is the only width. -/
theorem test_wf_width : (Access.mk 0x008 2).widthOk = false ∧ (Access.mk 0x008 2).wf = false ∧
    (Access.mk 0x008 4).wf = true := by decide

/-- 20_memory.md R62: no misaligned access. -/
theorem test_wf_align : (Access.mk 0x006 4).alignOk = false ∧ (Access.mk 0x006 4).wf = false := by decide

/-- 20_memory.md R60: the block has 2048 bytes. -/
theorem test_wf_range : (Access.mk 0x800 4).rangeOk = false ∧ (Access.mk 0x800 4).wf = false ∧
    (Access.mk 0x7FC 4).wf = true := by decide

/-- 20_memory.md R74 (c), (d): an empty word, a word of 32 bytes, a word with a space. -/
theorem test_wf_romEntry : romEntryOk [] = false ∧ romEntryOk (List.replicate 32 0x61) = false ∧
    romEntryOk [0x61, 0x20] = false ∧ romEntryOk (List.replicate 31 0x61) = true := by decide

/-- Every command is well formed (30_encoding.md R93). -/
theorem test_wf_commands : Instr.all.all Instr.wf = true ∧ Instr.all.length = 9 := by decide

/-! ### Decoding: words written out bit by bit from 30_encoding.md R90 and R91 (MBZ, then OPC) -/

theorem test_decode_encode : commandOf 0b000000000000000000000000_00000001#32 = some .encode := by decide
theorem test_decode_decode : commandOf 0b000000000000000000000000_00000010#32 = some .decode := by decide
theorem test_decode_check : commandOf 0b000000000000000000000000_00000011#32 = some .check := by decide
theorem test_decode_derive : commandOf 0b000000000000000000000000_00000100#32 = some .derive := by decide
theorem test_decode_pack : commandOf 0b000000000000000000000000_00000101#32 = some .pack := by decide
theorem test_decode_unpack : commandOf 0b000000000000000000000000_00000110#32 = some .unpack := by decide
theorem test_decode_lookup : commandOf 0b000000000000000000000000_00000111#32 = some .lookup := by decide
theorem test_decode_search : commandOf 0b000000000000000000000000_00001000#32 = some .search := by decide
theorem test_decode_clear : commandOf 0b000000000000000000000000_00001001#32 = some .clear := by decide

/-- 30_encoding.md R94: the reason a word is illegal. -/
theorem test_decode_illegal : decode 0b000000000000000000000001_00000001#32 = .error .mbzNotZero ∧
    decode 0b000000000000000000000000_00001010#32 = .error .opcodeUnknown ∧
    decode 0x00000000 = .error .opcodeUnknown := ⟨rfl, rfl, rfl⟩

/-- The host's probe of the decoder. -/
theorem test_decodeTableWord : decodeTableWord 32 0x00000009 = some .clear ∧ decodeTableWord 32 0x0000000A = none ∧
    decodeTableWord 8 0x00000109 = some .clear := by decide

/-! ### The fixture: TROM (95_test_vectors.md section 3), a table of digests, and a stand-in for HMAC512 -/

/-- A lower-case hexadecimal digit in ASCII. -/
def hexDigit (k : Nat) : Byte := BitVec.ofNat 8 (if k % 16 < 10 then 0x30 + k % 16 else 0x57 + k % 16)

/-- The five bytes of a TROM word. -/
def tBytes (l i : Nat) : Bytes :=
  [BitVec.ofNat 8 (0x61 + l), hexDigit (i / 4096), hexDigit (i / 256), hexDigit (i / 16), hexDigit i]

/-- TROM (95_test_vectors.md section 3). -/
def tRom (l : LangId) (i : Fin 2048) : RomWord :=
  if l = 0 ∧ i = 0 then Config.wordAbandon
  else if l = 0 ∧ i = 3 then Config.wordAbout
  else if h : romEntryOk (tBytes l.val i.val) = true then ⟨tBytes l.val i.val, h⟩ else Config.wordAbandon

/-- Leading digest bytes of V-C5, V-U7, V-P21, V-P23; only byte 0 is used (20_memory.md R76). -/
def tSha (m : Bytes) : Vector Byte 32 :=
  bytesVec 32
    [if m = List.replicate 16 0 then 0x37
     else if m = List.replicate 15 0 ++ [0x01] then 0x7C
     else if m = (List.range 16).map (BitVec.ofNat 8) then 0xBE
     else if m = (List.range 32).map (BitVec.ofNat 8) then 0x63
     else 0x00]

/-- Not HMAC-SHA512: any function shows the order of requests. Byte 0 is the length of the message, byte 1 of the key. -/
def tHmac (k m : Bytes) : Vector Byte 64 := bytesVec 64 [BitVec.ofNat 8 m.length, BitVec.ofNat 8 k.length]

/-- The fixture platform. -/
def tp : Platform := ⟨fun _ => 11, tRom, tSha, tHmac⟩

/-- The fixture with ROMs of another width (V-K9, V-Q4). -/
def tp12 : Platform := ⟨fun _ => 12, tRom, tSha, tHmac⟩

/-- STATUS and ERR_INFO after a command and one turn of the engine. -/
def outcome (p : Platform) (i : Instr) (s : State) : Word × Word :=
  (statusWord (oneShot p i s), (oneShot p i s).errInfo)

/-- After reset with sixteen or more entropy bytes. -/
def withEnt (e : Bytes) (len : Nat) : State :=
  { State.reset with ent := bytesVec 32 e, entLen := BitVec.ofNat 32 len }

/-- After reset with an index list. -/
def withIdx (xs : List Nat) (n : Nat) : State :=
  { State.reset with idx := idxVec xs, wordCnt := BitVec.ofNat 32 n }

/-- After reset with a mnemonic string. -/
def withMnem (m : Bytes) : State :=
  { State.reset with mnem := bytesVec 1024 m, mnemLen := BitVec.ofNat 32 m.length }

/-- "abandon" -/
def abandon : Bytes := Config.wordAbandon.bytes

/-- "about" -/
def about : Bytes := Config.wordAbout.bytes

/-- REF of 95_test_vectors.md section 10. -/
def ref : Bytes := (List.replicate 11 (abandon ++ [0x20])).flatten ++ about

/-- `n` words "abandon". -/
def abandons (n : Nat) : Bytes := (List.replicate (n - 1) (abandon ++ [0x20])).flatten ++ abandon

/-! ### Results of the commands -/

/-- V-P1. -/
theorem test_pack_zeros : outcome tp .pack (withEnt [] 16) = (0x00000502, 0) ∧
    indices (oneShot tp .pack (withEnt [] 16)) = List.replicate 11 0 ++ [3] := by decide +kernel

/-- V-P21. -/
theorem test_pack_counting :
    indices (oneShot tp .pack (withEnt ((List.range 16).map (BitVec.ofNat 8)) 16)) =
      [0, 64, 1030, 64, 643, 28, 257, 266, 88, 771, 540, 251] := by decide +kernel

/-- V-U7: another entropy that passes. -/
theorem test_unpack_other_entropy :
    outcome tp .unpack (withIdx (List.replicate 11 0 ++ [23]) 12) = (0x00000602, 0) ∧
    entropy (oneShot tp .unpack (withIdx (List.replicate 11 0 ++ [23]) 12)) = List.replicate 15 0 ++ [0x01] := by
  decide +kernel

/-- V-U6 and V-U4: a wrong checksum, and the smallest bad entry. -/
theorem test_unpack_errors :
    outcome tp .unpack (withIdx (List.replicate 11 0 ++ [4]) 12) = (0x00000652, 0) ∧
    outcome tp .unpack (withIdx [0, 0, 0, 0x10000, 0, 0, 0, 0xFFFFFFFF] 12) = (0x00000682, 3) := by decide +kernel

/-- V-K1. -/
theorem test_lookup_two : outcome tp .lookup (withIdx [0, 3] 2) = (0x00000702, 0) ∧
    mnemonic (oneShot tp .lookup (withIdx [0, 3] 2)) = abandon ++ [0x20] ++ about := by decide +kernel

/-- V-K4, V-K5, V-K9. -/
theorem test_lookup_errors : outcome tp .lookup (withIdx [] 25) = (0x00000772, 0x28) ∧
    outcome tp .lookup (withIdx [0, 2048, 4096] 3) = (0x00000782, 1) ∧
    outcome tp12 .lookup (withIdx [] 0) = (0x00000712, 12) := by decide +kernel

/-- V-H1. -/
theorem test_search_spaces :
    outcome tp .search (withMnem ([0x20, 0x20] ++ abandon ++ [0x09] ++ about ++ [0x0A])) = (0x00000802, 0) ∧
    indices (oneShot tp .search (withMnem ([0x20, 0x20] ++ abandon ++ [0x09] ++ about ++ [0x0A]))) = [0, 3] := by
  decide +kernel

/-- V-H9: the count goes on past the 24 stored entries. -/
theorem test_search_thirty :
    (oneShot tp .search (withMnem (abandons 30 ++ [0x20]))).wordCnt = 30 := by decide +kernel

/-- V-E1. -/
theorem test_encode_reference : outcome tp .encode (withEnt [] 16) = (0x00000102, 0) ∧
    mnemonic (oneShot tp .encode (withEnt [] 16)) = ref := by decide +kernel

/-- V-E4, and V-E6 with width 12: the wordlist test comes first. -/
theorem test_encode_errors : outcome tp .encode (withEnt [] 15) = (0x00000122, 15) ∧
    outcome tp12 .encode (withEnt [] 15) = (0x00000112, 12) := by decide +kernel

/-- V-D1. -/
theorem test_decode_reference : outcome tp .decode (withMnem ref) = (0x00000202, 0) ∧
    entropy (oneShot tp .decode (withMnem ref)) = List.replicate 16 0 := by decide +kernel

/-- V-D3 and V-D4. -/
theorem test_decode_errors : outcome tp .decode (withMnem (abandons 12)) = (0x00000252, 0) ∧
    outcome tp .decode (withMnem (abandons 13)) = (0x00000242, 13) := by decide +kernel

/-- V-Q1. -/
theorem test_check_reference : outcome tp .check (withMnem ref) = (0x00000306, 0) := by decide +kernel

/-- V-Q2, V-Q4. -/
theorem test_check_false : outcome tp .check (withMnem (abandons 12)) = (0x00000302, 0) ∧
    outcome tp12 .check (withMnem ref) = (0x00000302, 0) := by decide +kernel

/-- 45_housekeeping.md R200, the example. -/
theorem test_clear : outcome tp .clear (withMnem ref) = (0x00000902, 0) ∧
    (oneShot tp .clear (withMnem ref)).mnemLen = 0 ∧ (oneShot tp .clear (withMnem ref)).mnem[0] = 0 := by
  decide +kernel

/-- A DERIVE of "abandon" with no passphrase, accepted. -/
def derive0 : State :=
  match execOn tp .derive (withMnem abandon) with
  | .next t => t
  | .fault _ | .refused _ => State.reset

/-- 44_seed.md R184: the first call carries the 12-byte first message, the second the 64-byte answer, and both the 7-byte
key; T is their exclusive or. -/
theorem test_derive_two_calls :
    (engineSteps tp 1 derive0).u[0] = 12 ∧ (engineSteps tp 2 derive0).u[0] = 64 ∧
    (engineSteps tp 2 derive0).u[1] = 7 ∧ (engineSteps tp 2 derive0).t[0] = 0b01001100 ∧
    (engineSteps tp 2 derive0).iter = 2 ∧ statusWord (engineSteps tp 2 derive0) = 0x00000401 := by decide +kernel

/-- 44_seed.md R183: MNEM_LEN is tested before PASS_LEN. -/
theorem test_derive_lengths :
    outcome tp .derive { State.reset with mnemLen := 1025, passLen := 257 } = (0x00000472, 0x2C) ∧
    outcome tp .derive { State.reset with passLen := 257 } = (0x00000472, 0x30) := by decide +kernel

/-- 45_housekeeping.md R202, the example, as two steps of the machine. -/
theorem test_illegal_word :
    (match stepOn tp (State.reset.withFetchWord 32 0x00000101) with
     | .next t => statusWord (engineStep tp t) == 0x00000162 && (engineStep tp t).errInfo == 0x00000101
     | _ => false) = true := by decide +kernel

/-! ### Registers -/

/-- V-L2, V-L8, V-L9, V-L11, V-L14. -/
theorem test_lang_id :
    [0x00006E65, 0x0074687A, 0x0000687A, 0x00004E45, 0x00206E65].map
      (fun x : Word => readAt tp { State.reset with lang := x } 0x014) = [0x100, 0x106, 0, 0, 0] := by decide +kernel

/-- V-B6. -/
theorem test_cs_bits :
    [16, 32, 15, 33, 0x110].map (fun x : Word => readAt tp { State.reset with entLen := x } 0x024) =
      [4, 8, 0, 0, 0] := by decide +kernel

/-- V-B2 and V-B13. -/
theorem test_lanes :
    (writeAt State.reset 0x404 0x206E6F64).mnem[7] = 0x20 ∧ (writeAt State.reset 0x7FC 0x44434241).mnem[1020] = 0x41 ∧
    readAt tp (writeAt State.reset 0x7FC 0x44434241) 0x7FC = 0x44434241 := by decide +kernel

/-- V-B12. -/
theorem test_status_w1c :
    statusWord { State.reset with op := 1, done := true, haz := true } = 0x0000010A ∧
    statusWord (writeAt { State.reset with op := 1, done := true, haz := true } 0x008 0xFFFFFFFF) = 0x00000100 := by
  decide +kernel

/-- 20_memory.md R75 and 40_wordlist_rom.md R113: the first bytes of the ROM image. -/
theorem test_rom_image : romImageByte tp 0 = 7 ∧ romImageByte tp 1 = 0x61 ∧ romImageByte tp 8 = 0 ∧
    romImageByte tp (65536 * 2 + 32 * 64 + 5) = 0x30 := by decide +kernel

/-- V-P27: group 5 of the counting bytes. -/
theorem test_group : group ((List.range 17).map (BitVec.ofNat 8)) 5 = 28 := by decide +kernel

/-- 30_encoding.md R101: LDBUF pads its last group. -/
theorem test_ldBuf : Script.ldBuf 0x200 [0x54, 0x52, 0x45, 0x5A, 0x4F, 0x52] =
    [Script.wr 0x200 0x5A455254, Script.wr 0x204 0x0000524F] := by decide +kernel

/-! ### Witnesses: for every statement with hypotheses a state and operands that meet all of them -/

/-- After reset with these events coming. -/
def ev (es : List Event) : State := { State.reset with inputs := es }

/-- The accept step of a command on the fixture platform. -/
def accepted (i : Instr) (s : State) : State :=
  match execOn tp i s with
  | .next t => t
  | .fault _ | .refused _ => s

/-- No external unit answers. -/
def unitsDown (s : State) : State := { s with shaUp := false, hmacUp := false }

/-- 41_checksum.md R130 and V-C5: of the digest byte 0 alone is kept while the command runs. -/
theorem test_digest_kept : (accepted .pack (withEnt [] 16)).work.digest = [0x37] := by decide +kernel

theorem witness_StepRunsTheDecodedCommand :
    ((ev [.write ⟨0x004, 4⟩ 5]).inputs = [.write ⟨0x004, 4⟩ 5] ∧ decode 5 = .ok .pack) ∧
    ((ev [.write ⟨0x004, 4⟩ 10, .engine]).inputs = [.write ⟨0x004, 4⟩ 10, .engine] ∧
      decode 10 = .error .opcodeUnknown) ∧
    State.reset.phase = .idle := ⟨⟨rfl, rfl⟩, ⟨rfl, rfl⟩, rfl⟩

theorem witness_StepTakesOneEvent :
    (ev []).inputs = [] ∧ (ev [.engine]).inputs = [.engine] ∧ (ev [.reset]).inputs = [.reset] ∧
    (ev [.units false true]).inputs = [.units false true] ∧
    (∀ off ∈ [0x000, 0x7FC], off % 4 = 0 ∧ off < 2048 ∧ (ev [.read ⟨off, 4⟩]).inputs = [.read ⟨off, 4⟩]) ∧
    (∀ off ∈ [0x000, 0x008, 0x7FC], off % 4 = 0 ∧ off < 2048 ∧ off ≠ 0x004 ∧
      (ev [.write ⟨off, 4⟩ 1]).inputs = [.write ⟨off, 4⟩ 1]) ∧
    (∀ a ∈ [(0x008, 2), (0x00A, 4), (0x800, 4)], (a.2 ≠ 4 ∨ a.1 % 4 ≠ 0 ∨ 2048 ≤ a.1) ∧
      (ev [.read ⟨a.1, a.2⟩]).inputs = [.read ⟨a.1, a.2⟩]) := by
  refine ⟨rfl, rfl, rfl, rfl, ?_, ?_, ?_⟩ <;> decide

theorem witness_ResetFromAnyState :
    ∃ s', ({ derive0 with inputs := [.reset] } : State).inputs = [.reset] ∧ derive0.phase = .busy ∧
      stepOn tp { derive0 with inputs := [.reset] } = .next s' := ⟨_, rfl, by decide +kernel, rfl⟩

theorem witness_AcceptStepOfEveryCommand : State.reset.phase = .idle := rfl

/-- Any word, a command's or not. -/
theorem witness_CommandWhileBusyIsDropped (v : Word) :
    ({ derive0 with inputs := [.write ⟨0x004, 4⟩ v] } : State).phase = .busy ∧
      ({ derive0 with inputs := [.write ⟨0x004, 4⟩ v] } : State).inputs = [.write ⟨0x004, 4⟩ v] :=
  ⟨show derive0.phase = .busy by decide +kernel, rfl⟩

/-- One outcome with no request, and one with a request the unit answers. -/
theorem witness_CompleteStepOnSuccess :
    ((accepted .clear State.reset).phase = .busy ∧ (accepted .clear State.reset).pend = .ok (zeroOutputs .clear) ∧
      (accepted .clear State.reset).shaReq = none) ∧
    (∃ w, (accepted .pack (withEnt [] 16)).phase = .busy ∧ (accepted .pack (withEnt [] 16)).pend = .ok w ∧
      (accepted .pack (withEnt [] 16)).shaReq ≠ none ∧ (accepted .pack (withEnt [] 16)).shaUp = true) :=
  ⟨⟨rfl, rfl, rfl⟩, _, rfl, rfl, by decide +kernel, rfl⟩

/-- Every command that can fail, accepted on inputs that make it fail, no unit answering. -/
theorem witness_CompleteStepOnFailure :
    ∀ i ∈ [Instr.encode, .decode, .derive, .pack, .unpack, .lookup, .search],
      let s := accepted i
        (unitsDown { State.reset with mnemLen := 1025, wordCnt := 25 })
      i ∉ [Instr.check, .clear] ∧ s.phase = .busy ∧ s.cmdw = encode i ∧ s.shaReq = none ∧
      (match s.pend with | .fail _ => true | .none | .ok _ | .derive => false) = true := by decide +kernel

theorem witness_IllegalWordFails : ∀ n ∈ [0x00000000, 0x0000000A, 0x00000100, 0xFFFFFF04],
    let v := BitVec.ofNat 32 n
    (ev [.write ⟨0x004, 4⟩ v]).phase = .idle ∧
    (v.toNat / 256 ≠ 0 ∨ v.toNat % 256 = 0 ∨ 9 < v.toNat % 256) ∧
    (ev [.write ⟨0x004, 4⟩ v]).inputs = [.write ⟨0x004, 4⟩ v] := by decide +kernel

theorem witness_UnitThatNeverAnswersHangs :
    (let s : State := { accepted .pack (withEnt [] 16) with shaUp := false }
     s.phase = .busy ∧ s.pend ≠ .derive ∧ s.shaReq ≠ none ∧ s.shaUp = false) ∧
    (let s : State := { derive0 with iter := 2047, hmacUp := false }
     s.phase = .busy ∧ s.pend = .derive ∧ s.iter.toNat < 2048 ∧ s.hmacUp = false) := by decide +kernel

/-- The value 0, and "zh" of 40_wordlist_rom.md R121. -/
theorem witness_LanguageResolution : ∀ n ∈ [0x00000000, 0x0000687A],
    ∀ l : Fin 7, BitVec.ofNat 32 n ≠ packCode (Config.langCodes[l.val]?.getD []) := by decide +kernel

theorem witness_TokensAreMaximalRuns :
    (∀ b ∈ ([] : Bytes), isWs b = true) ∧ (∀ b ∈ [0x20, 0x09, 0x0A, 0x0D, 0x0C, (0x0B : Byte)], isWs b = true) ∧
    (∃ t ∈ tokens abandon, ∃ b, b ∈ t) := by decide +kernel

theorem witness_RomImageHoldsTheWords : ∀ k ∈ [8, 31], (Config.platform.rom 0 0).bytes.length < k ∧ k < 32 := by
  decide +kernel

theorem witness_GroupIsElevenBits :
    11 * 11 + 10 < 8 * (List.replicate 17 (0 : Byte)).length ∧ 11 * 0 + 10 < 8 * (List.replicate 2 (0 : Byte)).length ∧
    11 * 23 + 10 < 8 * (List.replicate 33 (0 : Byte)).length := by decide

/-- The shortest and the longest list, with the greatest index. -/
theorem witness_SplitOfAnIndexList : ∀ n ∈ [12, 24],
    (List.replicate n 2047).length ∈ [12, 15, 18, 21, 24] ∧ ∀ x ∈ List.replicate n 2047, x < 2048 := by decide

/-- The two checksum bytes differ in their low four bits; the last group of 16 bytes, and the only case of 32. -/
theorem witness_LowDigestBitsReachNoIndex :
    (let e : Bytes := List.replicate 16 0
     e.length ∈ [16, 20, 24, 28, 32] ∧
     (0x30 : Byte).toNat / 2 ^ (8 - e.length / 4) = (0x3F : Byte).toNat / 2 ^ (8 - e.length / 4) ∧
     11 < 3 * e.length / 4) ∧
    (let e : Bytes := List.replicate 28 0
     e.length ∈ [16, 20, 24, 28, 32] ∧
     (0x30 : Byte).toNat / 2 ^ (8 - e.length / 4) = (0x31 : Byte).toNat / 2 ^ (8 - e.length / 4) ∧
     20 < 3 * e.length / 4) := by decide

theorem ready_withEnt (e : Bytes) (n : Nat) : Ready (withEnt e n) := ⟨rfl, rfl⟩
theorem ready_withMnem (m : Bytes) : Ready (withMnem m) := ⟨rfl, rfl⟩

theorem witness_PackResult : ∀ n ∈ [16, 32],
    (withEnt [] n).phase = .idle ∧ (withEnt [] n).shaUp = true ∧
    (withEnt [] n).entLen.toNat ∈ [16, 20, 24, 28, 32] := by
  intro n hn
  refine ⟨rfl, rfl, ?_⟩
  revert n
  decide

theorem witness_InvalidEntropyLengthFails : ∀ n ∈ [0, 15, 17, 33, 0x110, 0xFFFFFFFF],
    (unitsDown (withEnt [] n)).phase = .idle ∧
    (unitsDown (withEnt [] n)).entLen.toNat ∉ [16, 20, 24, 28, 32] := by
  intro n hn
  refine ⟨rfl, ?_⟩
  revert n
  decide

/-- Eleven zeros and `v < 16`: sixteen zero bytes with the checksum part `v`. -/
theorem zeros_then : ∀ v : Fin 16,
    (withIdx (List.replicate 11 0 ++ [v.val]) 12).wordCnt.toNat = 12 ∧
    (∀ i : Fin 24, (withIdx (List.replicate 11 0 ++ [v.val]) 12).idx[i].toNat < 2048) ∧
    splitEntropy (indices (withIdx (List.replicate 11 0 ++ [v.val]) 12)) = List.replicate 16 0 ∧
    splitChecksum (indices (withIdx (List.replicate 11 0 ++ [v.val]) 12)) = v.val := by decide +kernel

/-- Both sides of the checksum test, whatever SHA256 is. -/
theorem witness_UnpackResult :
    (∃ v : Fin 16,
      let s := withIdx (List.replicate 11 0 ++ [v.val]) 12
      let xs := (s.idx.toList.take s.wordCnt.toNat).map BitVec.toNat
      s.phase = .idle ∧ s.shaUp = true ∧ s.wordCnt.toNat ∈ [12, 15, 18, 21, 24] ∧
      (∀ i (h : i < 24), i < s.wordCnt.toNat → s.idx[i].toNat < 2048) ∧
      (Config.sha256 (splitEntropy xs))[0].toNat / 2 ^ (8 - s.wordCnt.toNat / 3) = splitChecksum xs) ∧
    (∃ v : Fin 16,
      let s := withIdx (List.replicate 11 0 ++ [v.val]) 12
      let xs := (s.idx.toList.take s.wordCnt.toNat).map BitVec.toNat
      s.phase = .idle ∧ s.shaUp = true ∧ s.wordCnt.toNat ∈ [12, 15, 18, 21, 24] ∧
      (∀ i (h : i < 24), i < s.wordCnt.toNat → s.idx[i].toNat < 2048) ∧
      (Config.sha256 (splitEntropy xs))[0].toNat / 2 ^ (8 - s.wordCnt.toNat / 3) ≠ splitChecksum xs) := by
  have hd := (Config.sha256 (List.replicate 16 0))[0].isLt
  refine ⟨⟨⟨(Config.sha256 (List.replicate 16 0))[0].toNat / 16, by omega⟩, ?_⟩,
    ⟨⟨((Config.sha256 (List.replicate 16 0))[0].toNat / 16 + 1) % 16, by omega⟩, ?_⟩⟩
  all_goals
    intro s xs
    obtain ⟨hn, hi, he, hc⟩ := zeros_then _
    refine ⟨rfl, rfl, by rw [hn]; decide, fun i h _ => hi ⟨i, h⟩, ?_⟩
    rw [show splitEntropy xs = List.replicate 16 0 from he, show splitChecksum xs = _ from hc,
      show s.wordCnt.toNat = 12 from hn]
    simp
    try omega

/-- The first and the last entry as the bad one; the counts 12 and 24; the counts that fail. -/
theorem witness_CountAndIndexErrors :
    (∀ n ∈ [0, 11, 25, 0x10C], (withIdx [] n).wordCnt.toNat ∉ [12, 15, 18, 21, 24]) ∧
    (∀ n ∈ [25, 0xFFFFFFFF], 24 < (withIdx [] n).wordCnt.toNat) ∧
    (∀ k ∈ [0, 23], ∀ h : k < 24,
      let s := unitsDown (withIdx (List.replicate k 2047 ++ [2048]) 24)
      s.phase = .idle ∧ k < s.wordCnt.toNat ∧ 2048 ≤ s.idx[k].toNat ∧ (∀ j : Fin 24, j.val < k → s.idx[j].toNat < 2048) ∧
      s.wordCnt.toNat ∈ [12, 15, 18, 21, 24] ∧ s.wordCnt.toNat ≤ 24) := by decide +kernel

theorem witness_LookupResult : ∀ n ∈ [0, 24],
    (unitsDown (withIdx (List.replicate n 2047) n)).phase = .idle ∧ (withIdx (List.replicate n 2047) n).wordCnt.toNat ≤ 24 ∧
    ∀ i : Fin 24, i.val < (withIdx (List.replicate n 2047) n).wordCnt.toNat →
      (withIdx (List.replicate n 2047) n).idx[i].toNat < 2048 := by
  intro n hn
  refine ⟨rfl, ?_⟩
  revert n
  decide +kernel

/-- No token, one token, and one token more than IDX holds, on the hardware's own ROM. -/
theorem witness_SearchResult : ∀ x ∈ [([], 0), (abandon, 1), (abandons 25, 25)],
    (unitsDown (withMnem x.1)).phase = .idle ∧ (withMnem x.1).mnemLen.toNat ≤ 1024 ∧
    (tokens ((withMnem x.1).mnem.toList.take (withMnem x.1).mnemLen.toNat)).map
      (findWord Config.platform (resolveLid (withMnem x.1).lang)) = (List.replicate x.2 0).map some := by
  intro x hx
  refine ⟨rfl, ?_⟩
  revert x
  decide +kernel

/-- MNEM_LEN = 1025; and "abandon" before a token of 32 bytes, which no ROM word equals. -/
theorem witness_LengthAndWordErrors :
    1024 < ({ State.reset with mnemLen := 1025 } : State).mnemLen.toNat ∧
    (let s := unitsDown (withMnem (abandon ++ [0x20] ++ List.replicate 32 0x61))
     s.phase = .idle ∧ s.mnemLen.toNat ≤ 1024 ∧
     tokens (s.mnem.toList.take s.mnemLen.toNat) = [abandon] ++ List.replicate 32 0x61 :: [] ∧
     (∀ v ∈ [abandon], findWord Config.platform (resolveLid s.lang) v ≠ none) ∧
     findWord Config.platform (resolveLid s.lang) (List.replicate 32 0x61) = none) := by
  refine ⟨by decide, rfl, by decide +kernel, by decide +kernel, by decide +kernel, ?_⟩
  exact findWord_of_long _ _ _ (by decide)

theorem witness_InvalidWordlistComesFirst :
    (unitsDown State.reset).phase = .idle ∧ (tp12.romBits (resolveLid (unitsDown State.reset).lang)).toNat ≠ 11 :=
  ⟨rfl, by decide +kernel⟩

theorem witness_EncodeResult : ∀ n ∈ [16, 32],
    (withEnt [] n).phase = .idle ∧ (withEnt [] n).shaUp = true ∧
    (withEnt [] n).entLen.toNat ∈ [16, 20, 24, 28, 32] := witness_PackResult

/-- No token on the hardware's own platform; on the fixture a wrong checksum (V-D3) and a right one (V-D1). -/
theorem witness_DecodeResult :
    ((withMnem []).phase = .idle ∧ (Config.platform.romBits (resolveLid (withMnem []).lang)).toNat = 11 ∧
      (withMnem []).mnemLen.toNat ≤ 1024 ∧
      (tokens ((withMnem []).mnem.toList.take (withMnem []).mnemLen.toNat)).map
        (findWord Config.platform (resolveLid (withMnem []).lang)) = ([] : List Nat).map some ∧
      ([] : List Nat).length ∉ [12, 15, 18, 21, 24]) ∧
    (∀ x ∈ [(abandons 12, 0), (ref, 3)],
      let s := withMnem x.1
      let xs := List.replicate 11 0 ++ [x.2]
      s.phase = .idle ∧ s.shaUp = true ∧ (tp.romBits (resolveLid s.lang)).toNat = 11 ∧ s.mnemLen.toNat ≤ 1024 ∧
      (tokens (s.mnem.toList.take s.mnemLen.toNat)).map (findWord tp (resolveLid s.lang)) = xs.map some ∧
      xs.length ∈ [12, 15, 18, 21, 24] ∧
      ((tp.sha256 (splitEntropy xs))[0].toNat / 2 ^ (8 - xs.length / 3) = splitChecksum xs ↔ x.2 = 3)) := by
  refine ⟨⟨rfl, by decide +kernel, by decide +kernel, by decide +kernel, by decide⟩, fun x hx => ?_⟩
  refine ⟨rfl, rfl, ?_⟩
  revert x
  decide +kernel

/-- A CHECK with no request while no unit answers, and one with a request that is answered. -/
theorem witness_CheckResult :
    ((unitsDown State.reset).phase = .idle ∧ (accepted .check (unitsDown State.reset)).shaReq = none) ∧
    ((withMnem ref).phase = .idle ∧ (accepted .check (withMnem ref)).shaReq ≠ none ∧ (withMnem ref).shaUp = true) :=
  ⟨⟨rfl, by decide +kernel⟩, rfl, by decide +kernel, rfl⟩

theorem witness_ClearResult : (unitsDown State.reset).phase = .idle := rfl

/-- A command that asks no unit while none answers, and a DERIVE that runs. -/
theorem witness_EveryCommandEnds :
    ((unitsDown State.reset).phase = .idle ∧
      exec .clear (unitsDown State.reset) = .next (accepted .clear (unitsDown State.reset)) ∧
      (accepted .clear (unitsDown State.reset)).shaReq = none) ∧
    (State.reset.phase = .idle ∧ State.reset.mnemLen.toNat ≤ 1024 ∧ State.reset.passLen.toNat ≤ 256 ∧
      State.reset.hmacUp = true ∧ (accepted .derive State.reset).shaReq = none) :=
  ⟨⟨rfl, rfl, rfl⟩, rfl, by decide, by decide, rfl, rfl⟩

/-- The smallest and the greatest lengths. -/
theorem witness_DeriveResult : ∀ x ∈ [(0, 0), (1024, 256)],
    let s : State := { State.reset with mnemLen := BitVec.ofNat 32 x.1, passLen := BitVec.ofNat 32 x.2 }
    s.phase = .idle ∧ s.hmacUp = true ∧ s.mnemLen.toNat ≤ 1024 ∧ s.passLen.toNat ≤ 256 := by
  intro x hx
  refine ⟨rfl, rfl, ?_⟩
  revert x
  decide

theorem witness_DeriveBadLength :
    1024 < ({ State.reset with mnemLen := 1025 } : State).mnemLen.toNat ∧
    (let s : State := { State.reset with mnemLen := 1024, passLen := 257 }
     s.phase = .idle ∧ s.mnemLen.toNat ≤ 1024 ∧ 256 < s.passLen.toNat) := by decide

/-- The first and the last iterate step. -/
theorem witness_IterateStep : ∀ n ∈ [0, 2047],
    let s : State := { derive0 with iter := BitVec.ofNat 12 n }
    s.phase = .busy ∧ s.pend = .derive ∧ s.iter.toNat < 2048 ∧ s.hmacUp = true := by decide +kernel

theorem witness_NoEarlySeed : ∀ x ∈ [(0, 2048), (2048, 0), (2047, 1)],
    let s : State := { derive0 with iter := BitVec.ofNat 12 x.1 }
    s.phase = .busy ∧ s.pend = .derive ∧ s.hmacUp = true ∧ s.iter.toNat + x.2 ≤ 2048 := by decide +kernel

/-- PACK of sixteen zero bytes, and UNPACK of the indices of V-U7, each with a second state that holds the result. -/
theorem witness_PackUnpackRoundTrip :
    (let s := withEnt [] 16
     let s' : State := { State.reset with idx := (oneShot tp .pack s).idx, wordCnt := (oneShot tp .pack s).wordCnt }
     Ready s ∧ Ready s' ∧ (oneShot tp .pack s).err = none ∧ s'.wordCnt = (oneShot tp .pack s).wordCnt ∧
     s'.idx = (oneShot tp .pack s).idx) ∧
    (let s := withIdx (List.replicate 11 0 ++ [23]) 12
     let s' : State := { State.reset with ent := (oneShot tp .unpack s).ent, entLen := (oneShot tp .unpack s).entLen }
     Ready s ∧ Ready s' ∧ (oneShot tp .unpack s).err = none ∧ s'.entLen = (oneShot tp .unpack s).entLen ∧
     s'.ent = (oneShot tp .unpack s).ent) :=
  ⟨⟨⟨rfl, rfl⟩, ⟨rfl, rfl⟩, by decide +kernel, rfl, rfl⟩,
    ⟨rfl, rfl⟩, ⟨rfl, rfl⟩, by decide +kernel, rfl, rfl⟩

theorem witness_OneIndexListPerEntropy : ∀ n ∈ [12, 24],
    n ∈ [12, 15, 18, 21, 24] ∧ (List.replicate (4 * n / 3) (0 : Byte)).length = 4 * n / 3 := by decide

theorem witness_EncodeIsPackThenLookup :
    (Ready (withEnt [] 16) ∧ (oneShot tp .encode (withEnt [] 16)).err = none) ∧
    (Ready (withEnt [] 15) ∧ (oneShot tp .encode (withEnt [] 15)).err ≠ none ∧
      (withEnt [] 15).entLen.toNat ∉ [16, 20, 24, 28, 32] ∧
      (tp12.romBits (resolveLid (withEnt [] 15).lang)).toNat ≠ 11) :=
  ⟨⟨ready_withEnt _ _, by decide +kernel⟩, ready_withEnt _ _, by decide +kernel, by decide, by decide +kernel⟩

/-- SEARCH fails; SEARCH succeeds and UNPACK fails; both succeed. -/
theorem witness_DecodeIsSearchThenUnpack :
    (Ready { State.reset with mnemLen := 1025 } ∧ (oneShot tp .search { State.reset with mnemLen := 1025 }).err ≠ none) ∧
    (Ready (withMnem abandon) ∧ (oneShot tp .search (withMnem abandon)).err = none ∧
      (oneShot tp .unpack (oneShot tp .search (withMnem abandon))).err ≠ none ∧
      (oneShot tp .decode (withMnem abandon)).err ≠ none) ∧
    (Ready (withMnem ref) ∧ (oneShot tp .decode (withMnem ref)).err = none) :=
  ⟨⟨⟨rfl, rfl⟩, by decide +kernel⟩, ⟨ready_withMnem _, by decide +kernel, by decide +kernel, by decide +kernel⟩,
    ready_withMnem _, by decide +kernel⟩

/-! The fixture's French list has pairwise different words. -/

theorem hexDigit_injective : ∀ a b : Fin 16, hexDigit a.val = hexDigit b.val → a = b := by decide +kernel

theorem hexDigit_mod (k : Nat) : hexDigit k = hexDigit (k % 16) := by simp [hexDigit]

theorem hexDigit_notWs : ∀ a : Fin 16, Config.ws.contains (hexDigit a.val) = false := by decide +kernel

theorem hexDigit_inj {a b : Nat} (h : hexDigit a = hexDigit b) : a % 16 = b % 16 := by
  rw [hexDigit_mod a, hexDigit_mod b] at h
  exact Fin.val_eq_of_eq (hexDigit_injective ⟨a % 16, by omega⟩ ⟨b % 16, by omega⟩ h)

theorem tRom_french (i : Fin 2048) : (tRom 2 i).bytes = tBytes 2 i.val := by
  have hd : ∀ k, Config.ws.contains (hexDigit k) = false := fun k => by
    rw [hexDigit_mod]
    exact hexDigit_notWs ⟨k % 16, by omega⟩
  have ok : romEntryOk (tBytes 2 i.val) = true := by
    have h0 : Config.ws.contains (BitVec.ofNat 8 (0x61 + 2)) = false := by decide
    simp only [romEntryOk, tBytes, List.all_cons, List.all_nil, hd, h0, List.length_cons, List.length_nil]
    rfl
  have h2 : ¬ ((2 : LangId) = 0) := by decide
  have e : tRom 2 i = ⟨tBytes 2 i.val, ok⟩ := by
    unfold tRom
    rw [if_neg (fun h => h2 h.1), if_neg (fun h => h2 h.1)]
    exact dif_pos ok
  rw [e]

theorem french_unique : RomUnique tp 2 := by
  intro i j h
  have h' : tBytes 2 i.val = tBytes 2 j.val := by
    rw [← tRom_french, ← tRom_french]
    exact h
  simp only [tBytes, List.cons.injEq, and_true, true_and] at h'
  obtain ⟨h1, h2, h3, h4⟩ := h'
  have := hexDigit_inj h1
  have := hexDigit_inj h2
  have := hexDigit_inj h3
  have := hexDigit_inj h4
  omega

/-- V-E2 and V-E3 in French. -/
theorem witness_StringRoundTrip : ∀ n ∈ [16, 32],
    let s : State := { withEnt ((List.range 32).map (BitVec.ofNat 8)) n with lang := 0x00007266 }
    let s' : State :=
      { State.reset with
        lang := s.lang, mnem := (oneShot tp .encode s).mnem, mnemLen := (oneShot tp .encode s).mnemLen }
    Ready s ∧ Ready s' ∧ (tp.romBits (resolveLid s.lang)).toNat = 11 ∧ RomUnique tp (resolveLid s.lang) ∧
    s.entLen.toNat ∈ [16, 20, 24, 28, 32] ∧ s'.lang = s.lang ∧ s'.mnem = (oneShot tp .encode s).mnem ∧
    s'.mnemLen = (oneShot tp .encode s).mnemLen := by
  intro n hn
  refine ⟨⟨rfl, rfl⟩, ⟨rfl, rfl⟩, rfl, ?_, ?_, rfl, rfl, rfl⟩
  · rw [show resolveLid 0x00007266 = 2 by decide +kernel]
    exact french_unique
  · revert n
    decide

/-- V-P25 for PACK and ENCODE, and other bytes beyond the lengths and other outputs for every command. -/
theorem witness_OutcomeDependsOnInputsOnly (i : Instr) :
    let s := withEnt [] 16
    let s' : State :=
      { withEnt (List.replicate 16 0 ++ List.replicate 16 0xFF) 16 with
        seed := Vector.replicate 64 1, pass := Vector.replicate 256 1, mnem := Vector.replicate 1024 1, haz := true }
    s.phase = .idle ∧ s'.phase = .idle ∧ SameInputs s s' i := by
  refine ⟨rfl, rfl, ?_⟩
  cases i <;> unfold SameInputs <;> decide +kernel

theorem witness_DeriveIsDeterministic :
    let s : State := { State.reset with mnemLen := 1024, passLen := 256 }
    let s' : State := { s with lang := 0x00007266, seed := Vector.replicate 64 1, haz := true }
    tp.hmac512 = tp12.hmac512 ∧ s.phase = .idle ∧ s'.phase = .idle ∧ s.hmacUp = true ∧
    s'.hmacUp = true ∧ s.mnemLen.toNat ≤ 1024 ∧ s.passLen.toNat ≤ 256 ∧
    SameInputs s s' .derive :=
  ⟨rfl, rfl, rfl, rfl, rfl, by decide, by decide, rfl, rfl, rfl, rfl⟩

theorem witness_ControlRegisterAndInterrupt :
    State.reset.phase = .idle ∧ execOn tp .clear State.reset = .next (accepted .clear State.reset) ∧
    completeEnabled (accepted .clear State.reset) = true ∧
    completeEnabled { derive0 with iter := 2048 } = true := ⟨rfl, rfl, by decide +kernel, by decide +kernel⟩

theorem witness_BufferReads_BufferWrites : State.reset.phase = .idle ∧ derive0.phase = .busy :=
  ⟨rfl, by decide +kernel⟩

theorem witness_WriteThenRead :
    State.reset.phase = .idle ∧
    ∀ off ∈ [0x010, 0x030, 0x040, 0x05C, 0x080, 0x0DC, 0x200, 0x2FC, 0x400, 0x7FC], off % 4 = 0 ∧
      (off ∈ [0x010, 0x020, 0x028, 0x02C, 0x030] ∨ (0x040 ≤ off ∧ off < 0x060) ∨ (0x080 ≤ off ∧ off < 0x0E0) ∨
        (0x200 ≤ off ∧ off < 0x300) ∨ (0x400 ≤ off ∧ off < 0x800)) := ⟨rfl, by decide⟩

theorem witness_WritesWhileBusy :
    derive0.phase = .busy ∧
    (∀ off ∈ [0x010, 0x030, 0x040, 0x05C, 0x080, 0x0DC, 0x200, 0x2FC, 0x400, 0x7FC], off % 4 = 0 ∧ off < 0x800 ∧
      (off ∈ [0x010, 0x020, 0x028, 0x02C, 0x030] ∨ (0x040 ≤ off ∧ off < 0x060) ∨ (0x080 ≤ off ∧ off < 0x0E0) ∨
        (0x200 ≤ off ∧ off < 0x300) ∨ 0x400 ≤ off)) ∧
    (0x008 % 4 = 0 ∧ 0x008 < 0x800) ∧ 0x00C % 4 = 0 := ⟨by decide +kernel, by decide, by decide, by decide⟩

theorem witness_ReservedAndReadOnlyOffsets :
    (∀ off ∈ [0x03C, 0x0E0, 0x0FC, 0x140, 0x1FC, 0x300, 0x3FC], off % 4 = 0 ∧
      (off = 0x03C ∨ (0x0E0 ≤ off ∧ off < 0x100) ∨ (0x140 ≤ off ∧ off < 0x200) ∨ (0x300 ≤ off ∧ off < 0x400))) ∧
    (∀ off ∈ [0x000, 0x038, 0x060, 0x07C, 0x100, 0x13C], off % 4 = 0 ∧
      (off ∈ [0x000, 0x014, 0x018, 0x01C, 0x024, 0x034, 0x038] ∨ (0x060 ≤ off ∧ off < 0x080) ∨
        (0x100 ≤ off ∧ off < 0x140))) := by decide

theorem witness_ReadsHaveNoSideEffect : ∀ off ∈ [0x000, 0x7FC],
    off % 4 = 0 ∧ off < 2048 ∧ (ev [.read ⟨off, 4⟩]).inputs = [.read ⟨off, 4⟩] ∧
    stepOn tp (ev [.read ⟨off, 4⟩]) = .next { ev [] with rdata := some (readAt tp (ev []) off) } := by
  intro off h
  simp only [List.mem_cons, List.not_mem_nil, or_false] at h
  rcases h with rfl | rfl <;> exact ⟨by decide, by decide, rfl, rfl⟩

/-! ### Witnesses of the invariants -/

/-- A CLEAR in flight over a SEED that is not zero. -/
def clearing (es : List Event) : State :=
  { accepted .clear State.reset with seed := Vector.replicate 64 1, inputs := es }

theorem clearing_inv (es : List Event) : Inv (clearing es) where
  idleHidden h := nomatch h
  busyPend _ h := nomatch h
  busyOp _ := show (9 : Byte) = (encode .clear).extractLsb' 0 8 by decide
  busyFlags _ := ⟨rfl, rfl, rfl, rfl⟩
  iterBound := Nat.zero_le _
  iterOp h := absurd rfl h
  deriveRuns h := nomatch h
  otherChain _ _ := ⟨rfl, rfl, rfl⟩
  pendWithin w h := by
    have : w = zeroOutputs .clear := by
      have h : Pend.ok (zeroOutputs .clear) = .ok w := h
      injection h with h
      exact h.symm
    subst this
    exact show (zeroOutputs .clear).within (zeroOutputsOf (encode .clear)) = true by decide +kernel
  validOp h := nomatch h
  errInfoZero _ := rfl
  shaLength _ h := nomatch h
  pendFail _ h := nomatch h
  workSize := show ([] : Bytes).length ≤ 33 ∧ ([] : Bytes).length ≤ 1 ∧ ([] : Bytes).length ≤ 1024 ∧
    ([] : Bytes).length ≤ 268 by decide

/-- A DERIVE in flight. -/
def deriving1 : State := { accepted .derive State.reset with inputs := [.engine] }

theorem deriving1_inv : Inv deriving1 where
  idleHidden h := nomatch h
  busyPend _ h := nomatch h
  busyOp _ := by decide +kernel
  busyFlags _ := ⟨rfl, rfl, rfl, rfl⟩
  iterBound := Nat.zero_le _
  iterOp h := absurd rfl h
  deriveRuns _ := by decide +kernel
  otherChain _ h := absurd rfl h
  pendWithin w h := nomatch h
  validOp h := nomatch h
  errInfoZero _ := rfl
  shaLength _ h := nomatch h
  pendFail _ h := nomatch h
  workSize := by decide +kernel

theorem witness_EveryStepKeepsTheInvariant :
    (Inv deriving1 ∧ ∃ s', stepOn tp deriving1 = .next s' ∧ s'.iter = 1) ∧
    (Inv (clearing []) ∧ ∃ s', stepOn tp (clearing []) = .next s' ∧ s'.phase = .idle) :=
  ⟨⟨deriving1_inv, _, rfl, rfl⟩, clearing_inv _, _, rfl, rfl⟩

theorem witness_EveryStepKeepsTheChain :
    Inv deriving1 ∧ ChainInv tp deriving1 ∧ ∃ s', stepOn tp deriving1 = .next s' ∧ s'.iter = 1 :=
  ⟨deriving1_inv, ⟨fun _ => rfl, fun _ h => absurd rfl h, Nat.zero_le _⟩, _, rfl, rfl⟩

theorem witness_PhaseTransitions :
    (∃ s', stepOn tp (ev [.write ⟨0x004, 4⟩ 9]) = .next s' ∧ (ev [.write ⟨0x004, 4⟩ 9]).phase = .idle ∧
      s'.phase = .busy) ∧
    (∃ s', stepOn tp (clearing [.engine]) = .next s' ∧ (clearing [.engine]).phase = .busy ∧ s'.phase = .idle) ∧
    (∃ s', stepOn tp (clearing [.reset]) = .next s' ∧ (clearing [.reset]).phase = .busy ∧ s'.phase = .idle) :=
  ⟨⟨_, rfl, rfl, rfl⟩, ⟨_, rfl, rfl, rfl⟩, ⟨_, rfl, rfl, rfl⟩⟩

/-- An iterate step, and a dropped write. -/
theorem witness_NoPartialResults :
    (∃ s', deriving1.phase = .busy ∧ stepOn tp deriving1 = .next s' ∧ s'.phase = .busy ∧ s'.iter = 1) ∧
    (∃ s', (clearing [.write ⟨0x020, 4⟩ 16]).phase = .busy ∧
      stepOn tp (clearing [.write ⟨0x020, 4⟩ 16]) = .next s' ∧ s'.phase = .busy ∧ s'.haz = true) :=
  ⟨⟨_, rfl, rfl, rfl, rfl⟩, ⟨_, rfl, rfl, rfl, rfl⟩⟩

theorem seed_changed : (Vector.replicate 64 0 : Vector Byte 64) ≠ Vector.replicate 64 1 := by decide +kernel

theorem witness_SeedIsWrittenByDeriveClearReset :
    (∃ s', Inv (clearing [.engine]) ∧ stepOn tp (clearing [.engine]) = .next s' ∧
      s'.seed ≠ (clearing [.engine]).seed) ∧
    (∃ s', Inv (clearing [.reset]) ∧ stepOn tp (clearing [.reset]) = .next s' ∧
      s'.seed ≠ (clearing [.reset]).seed) :=
  ⟨⟨_, clearing_inv _, rfl, seed_changed⟩, ⟨_, clearing_inv _, rfl, seed_changed⟩⟩

/-- HAZ set by a dropped write; cleared by a write to STATUS and by reset; and two runs of one command. -/
theorem witness_HazardFlag :
    (∃ s', stepOn tp (clearing [.write ⟨0x004, 4⟩ 1]) = .next s' ∧ (clearing [.write ⟨0x004, 4⟩ 1]).haz = false ∧
      s'.haz = true) ∧
    (∃ s', stepOn tp (clearing [.write ⟨0x7FC, 4⟩ 1]) = .next s' ∧ s'.haz = true) ∧
    (∃ s', stepOn tp (clearing [.write ⟨0x03C, 4⟩ 1]) = .next s' ∧ s'.haz = false) ∧
    (∃ s', stepOn tp { clearing [] with haz := true } = .next s' ∧ s'.haz = true) ∧
    (∃ s', stepOn tp { clearing [.write ⟨0x008, 4⟩ 8] with haz := true } = .next s' ∧ s'.haz = false) ∧
    (∃ s', stepOn tp { clearing [.reset] with haz := true } = .next s' ∧ s'.haz = false) ∧
    (∃ t t', execOn tp .clear State.reset = .next t ∧
      execOn tp .clear { State.reset with haz := true } = .next t') :=
  ⟨⟨_, rfl, rfl, rfl⟩, ⟨_, rfl, rfl⟩, ⟨_, rfl, rfl⟩, ⟨_, rfl, rfl⟩, ⟨_, rfl, rfl⟩, ⟨_, rfl, rfl⟩, ⟨_, _, rfl, rfl⟩⟩

/-- The kind a command fails with. -/
def raises (p : Platform) (i : Instr) (s : State) : Option ErrorKind :=
  match execOn p i s with
  | .next t =>
    match t.pend with
    | .fail r => some r.kind
    | .none | .ok _ | .derive => none
  | .fault _ | .refused _ => none

/-- Each kind is raised by a command from an IDLE state. -/
theorem witness_WhichCommandRaisesWhich :
    raises tp12 .encode State.reset = some .invalidWordlist ∧
    raises tp .pack State.reset = some .invalidEntropyLength ∧
    raises { tp with rom := fun _ _ => Config.wordAbandon } .search (withMnem about) = some .invalidWord ∧
    raises tp .unpack State.reset = some .invalidMnemonicLength ∧
    raises tp .unpack (withIdx [] 12) = some .checksumMismatch ∧
    raises tp .lookup (withIdx [] 25) = some .badLength ∧
    raises tp .lookup (withIdx [2048] 1) = some .badIndex := by decide +kernel

end Sys2Proof.Tests
end

section
/-! PROOFS. The host's view of STATUS, CTRL, `irq` and HAZ (10_state.md R24, R28, R31). -/

namespace Sys2Proof.Machine

/-! ### The engine's complete step -/

theorem complete_ie (s : State) : (complete s).ie = s.ie := by
  cases h : s.pend <;> simp [complete, completeOk, completeFail, h]

theorem complete_haz (s : State) : (complete s).haz = s.haz := by
  cases h : s.pend <;> simp [complete, completeOk, completeFail, h]

/-- A complete step sets DONE whenever it is enabled, success or failure (10_state.md R52). -/
theorem complete_done_of_enabled {s : State} (h : completeEnabled s = true) : (complete s).done = true := by
  cases hp : s.pend with
  | none => simp [completeEnabled, hp] at h
  | ok w => simp [complete, completeOk, hp]
  | fail r => simp [complete, completeFail, hp]
  | derive => simp [complete, completeOk, hp]

/-- No state enables both steps of the engine: a DERIVE completes only after its last iterate step (10_state.md R52). -/
theorem iterateEnabled_of_completeEnabled {s : State} (h : completeEnabled s = true) : iterateEnabled s = false := by
  rw [Bool.eq_false_iff, Ne, iterateEnabled_iff]
  rintro ⟨-, hp, hi, -⟩
  simp [completeEnabled, hp, Config.iterTotal] at h
  omega

theorem engineStep_of_completeEnabled {s : State} (h : completeEnabled s = true) (p : Platform) :
    engineStep p s = complete s := by
  simp [engineStep, iterateEnabled_of_completeEnabled h, h]

/-- No engine step touches HAZ (10_state.md R28). -/
@[simp] theorem engineStep_haz (p : Platform) (s : State) : (engineStep p s).haz = s.haz := by
  rcases engineStep_cases p s with ⟨-, e⟩ | ⟨-, -, e⟩ | ⟨-, -, e⟩ <;> rw [e]
  · exact iterate_haz p s
  · exact complete_haz s

/-! ### STATUS -/

/-- Two fields side by side: the upper one counts from the width of the lower one on (00_scope.md R10). -/
theorem toNat_append_eq_add {m n : Nat} (x : BitVec m) (y : BitVec n) :
    (x ++ y).toNat = 2 ^ n * x.toNat + y.toNat := by
  rw [BitVec.toNat_append, ← Nat.shiftLeft_add_eq_or_of_lt y.isLt, Nat.shiftLeft_eq, Nat.mul_comm]

theorem statusWord_toNat (s : State) :
    (statusWord s).toNat = (busy s).toNat + 2 * s.done.toNat + 4 * s.valid.toNat + 8 * s.haz.toNat +
      16 * (errCode s).toNat + 256 * s.op.toNat := by
  simp only [statusWord, toNat_append_eq_add, BitVec.toNat_ofBool, BitVec.toNat_ofNat]
  omega

theorem writeStatus_eq_ite (s : State) (v : Word) :
    writeStatus s v =
      { s with done := if v.getLsbD 1 then false else s.done, haz := if v.getLsbD 3 then false else s.haz } := by
  have w1c (old written : Bool) : (old && !written) = if written then false else old := by cases written <;> simp
  simp only [writeStatus, w1c]

/-- Settles O45: STATUS is its fields side by side, and ERR is the code of the kind. -/
theorem statusRegister : Obligations.StatusRegister := by
  intro p s v code
  have hcode : (errCode s).toNat = code := by
    rcases h : s.err with _ | k
    · simp [code, errCode, h]
    · cases k <;> simp [code, errCode, errorCode, h]
  refine ⟨?_, writeStatus_eq_ite s v⟩
  calc (readAt p s 0x008).toNat = (statusWord s).toNat := rfl
    _ = _ := by
      rw [statusWord_toNat, hcode]
      simp [Bool.toNat, Bool.cond_eq_ite, busy_eq_true]

/-! ### CTRL and `irq` -/

theorem ctrlWord_toNat (s : State) : (ctrlWord s).toNat = if s.ie then 1 else 0 := by
  cases h : s.ie <;> simp [ctrlWord, zext32, h]

theorem irq_of_done_eq_false {s : State} (h : s.done = false) : irq s = false := by simp [irq, h]

/-- Settles O46: `irq` follows from what each operation does to DONE and to IE. -/
theorem controlRegisterAndInterrupt : Obligations.ControlRegisterAndInterrupt := by
  intro p s v
  have hread (t : State) : (readAt p t 0x00C).toNat = if t.ie then 1 else 0 := ctrlWord_toNat t
  have hwrite : writeAt s 0x00C v = { s with ie := v.getLsbD 0 } := rfl
  refine ⟨hwrite, hread s, ?_, ?_, ?_, ?_, ?_, rfl⟩
  · rw [hread, hwrite]
    simp only [BitVec.getLsbD, Nat.testBit_zero, decide_eq_true_eq]
    split_ifs <;> omega
  · rw [hwrite, irq]
  · refine irq_of_done_eq_false (show (writeStatus s 2).done = false from ?_)
    simp [writeStatus_eq_ite]
  · intro i t hidle ht
    rw [execOn_of_idle hidle] at ht
    cases ht
    exact irq_of_done_eq_false (accept_done ..)
  · intro h
    rw [engineStep_of_completeEnabled h, irq, complete_done_of_enabled h, complete_ie, Bool.true_and]

/-! ### HAZ -/

/-- What a running command protects from the host's writes, CMD among it (70_reset_and_hazards.md R246). -/
def Slot.guarded : Slot → Bool
  | .cmd | .lang | .entLen | .wordCnt | .mnemLen | .passLen | .ent _ | .idx _ | .pass _ | .mnem _ => true
  | .id | .status | .ctrl | .langId | .wlBits | .nLang | .csBits | .iter | .errInfo | .langTab _ | .seed _
  | .reserved => false

theorem registerSlot_guarded_iff (a : Nat) :
    (registerSlot a).guarded = true ↔ a ∈ [0x004, 0x010, 0x020, 0x028, 0x02C, 0x030] := by
  unfold registerSlot
  split <;> simp_all [Slot.guarded]

/-- The offsets a running command protects (70_reset_and_hazards.md R246). -/
theorem slotOf_guarded_iff {a : Nat} (h : a < 0x800) :
    (slotOf a).guarded = true ↔
      a ∈ [0x004, 0x010, 0x020, 0x028, 0x02C, 0x030] ∨ (0x040 ≤ a ∧ a < 0x060) ∨ (0x080 ≤ a ∧ a < 0x0E0) ∨
        (0x200 ≤ a ∧ a < 0x300) ∨ 0x400 ≤ a := by
  rcases Nat.lt_or_ge a 0x040 with hlow | hhigh
  · rw [slotOf_low a hlow, registerSlot_guarded_iff]
    exact ⟨Or.inl, fun h => h.resolve_right (by omega)⟩
  · have hreg : a ∉ [0x004, 0x010, 0x020, 0x028, 0x02C, 0x030] := by simp; omega
    unfold slotOf
    split_ifs <;>
      simp only [Slot.guarded, hreg, true_iff, false_iff, false_or, Bool.false_eq_true] <;> omega

theorem issue_haz (s : State) (v : Word) (l : Launch) :
    (issue s v l).haz = if s.phase = .busy then true else s.haz := by
  rcases h : s.phase with _ | _
  · simp [issue_of_idle h]
  · simp [issue_of_busy h]

@[simp] theorem acceptBase_haz (i : Instr) (s : State) : (acceptBase i s).haz = s.haz := by
  unfold acceptBase clearChain
  split_ifs <;> rfl

/-- HAZ after a write to CMD, whatever the word (10_state.md R23). -/
theorem writeCmd_haz {p : Platform} {s s' : State} {v : Word}
    (h : writeCmd (execOn p) execIllegal s v = .next s') : s'.haz = if s.phase = .busy then true else s.haz := by
  rcases writeCmd_cases p s v with ⟨i, -, e⟩ | ⟨_, -, e⟩
  · rw [e, execOn_eq_issue] at h
    cases h
    simp [issue_haz]
  · rw [e] at h
    cases h
    exact issue_haz ..

/-- HAZ after a write to any register but CMD (10_state.md R28). -/
theorem writeSlot_haz (s : State) (v : Word) {slot : Slot} (hcmd : slot ≠ .cmd) :
    (writeSlot s v slot).haz =
      if slot = .status then s.haz && !v.getLsbD 3
      else if s.phase = .busy ∧ slot.guarded = true then true else s.haz := by
  rcases h : s.phase with _ | _
  · cases slot <;> simp [writeSlot, guardedWrite_of_idle h, writeStatus, writeCtrl]
  · cases slot <;> simp [writeSlot, guardedWrite_of_busy h, writeStatus, writeCtrl, Slot.guarded] at hcmd ⊢

theorem hostWrite_haz {p : Platform} {s s' : State} {off : Nat} {v : Word}
    (h : hostWrite (execOn p) execIllegal s off v = .next s') :
    s'.haz =
      if off = 0x008 then s.haz && !v.getLsbD 3
      else if s.phase = .busy ∧ (slotOf off).guarded = true then true else s.haz := by
  unfold hostWrite at h
  split_ifs at h with hcmd
  · obtain rfl := (slotOf_eq_cmd off).1 hcmd
    simpa [hcmd, Slot.guarded] using writeCmd_haz h
  · cases h
    simpa only [writeAt, slotOf_eq_status] using writeSlot_haz s v hcmd

/-- HAZ after a host write the bus can express, the protected offsets written out (70_reset_and_hazards.md R246). -/
theorem stepEvent_write_haz {p : Platform} {s s' : State} {a : Access} {v : Word}
    (h : stepEvent (execOn p) p s (.write a v) = .next s') :
    s'.haz =
      if a.addr = 0x008 then s.haz && !v.getLsbD 3
      else if s.phase = .busy ∧
          (a.addr ∈ [0x004, 0x010, 0x020, 0x028, 0x02C, 0x030] ∨ (0x040 ≤ a.addr ∧ a.addr < 0x060) ∨
            (0x080 ≤ a.addr ∧ a.addr < 0x0E0) ∨ (0x200 ≤ a.addr ∧ a.addr < 0x300) ∨ 0x400 ≤ a.addr) then true
      else s.haz := by
  simp only [stepEvent] at h
  split_ifs at h with hwf
  have hrange : a.addr < 0x800 := by
    simp only [Access.wf, Access.rangeOk, Bool.and_eq_true, decide_eq_true_eq] at hwf
    exact hwf.2
  simpa only [slotOf_guarded_iff hrange] using hostWrite_haz h

/-- The outcome of a command does not depend on HAZ (10_state.md R28). -/
theorem launchOf_with_haz (p : Platform) (i : Instr) (s : State) (b : Bool) :
    launchOf p i { s with haz := b } = launchOf p i s := by
  cases i <;> rfl

/-- HAZ at accept changes neither the outcome nor the request of a command (10_state.md R28). -/
theorem execOn_with_haz {p : Platform} {i : Instr} {s t t' : State} {b : Bool} (ht : execOn p i s = .next t)
    (ht' : execOn p i { s with haz := b } = .next t') : t.pend = t'.pend ∧ t.shaReq = t'.shaReq := by
  rcases h : s.phase with _ | _
  · rw [execOn_of_idle h] at ht
    rw [execOn_of_idle (s := { s with haz := b }) h, launchOf_with_haz] at ht'
    cases ht
    cases ht'
    exact ⟨rfl, rfl⟩
  · rw [execOn_of_busy h] at ht
    rw [execOn_of_busy (s := { s with haz := b }) h] at ht'
    cases ht
    cases ht'
    exact ⟨rfl, rfl⟩

/-- Settles O59: the events one by one, then the commands. -/
theorem hazardFlag : Obligations.HazardFlag := by
  refine ⟨fun p s s' h => ?_, fun p i s b t t' ht ht' => execOn_with_haz ht ht'⟩
  rw [stepOn] at h
  rcases stepWith_cases (execOn p) p s with ⟨hin, hstep⟩ | ⟨e, rest, hin, hstep⟩ <;> rw [hstep] at h <;> rw [hin]
  · cases h
    exact engineStep_haz p s
  · cases e with
    | read a =>
      simp only [stepEvent] at h
      split_ifs at h
      cases h
      rfl
    | write a v => exact stepEvent_write_haz (s := { s with inputs := rest }) h
    | engine =>
      cases h
      exact engineStep_haz p _
    | reset | units =>
      cases h
      rfl

end Sys2Proof.Machine
end

section
/-! PROOFS. The offsets of the register space that no host write changes (20_memory.md R64, R65). -/

namespace Sys2Proof.Machine

/-- What the host can only read: the registers and buffers marked RO in the map (20_memory.md R65). -/
def Slot.readOnly : Slot → Bool
  | .id | .langId | .wlBits | .nLang | .csBits | .iter | .errInfo | .langTab _ | .seed _ => true
  | .cmd | .status | .ctrl | .lang | .entLen | .wordCnt | .mnemLen | .passLen | .ent _ | .idx _ | .pass _ | .mnem _
  | .reserved => false

theorem writeSlot_of_readOnly {slot : Slot} (h : slot.readOnly = true) (s : State) (v : Word) :
    writeSlot s v slot = s := by
  cases slot <;> simp [Slot.readOnly, writeSlot] at h ⊢

/-- The reserved offsets of the map (20_memory.md R65). -/
theorem slotOf_reserved {off : Nat}
    (h : off = 0x03C ∨ (0x0E0 ≤ off ∧ off < 0x100) ∨ (0x140 ≤ off ∧ off < 0x200) ∨ (0x300 ≤ off ∧ off < 0x400)) :
    slotOf off = .reserved := by
  rcases h with rfl | h | h | h
  · rfl
  all_goals simp (disch := omega) only [slotOf, if_neg, if_pos]

theorem registerSlot_readOnly {off : Nat} (h : off ∈ [0x000, 0x014, 0x018, 0x01C, 0x024, 0x034, 0x038]) :
    (registerSlot off).readOnly = true := by
  revert off
  decide

/-- The read-only offsets of the map: registers, the language table and the SEED buffer (20_memory.md R65). -/
theorem slotOf_readOnly {off : Nat} (hword : off % 4 = 0)
    (h : off ∈ [0x000, 0x014, 0x018, 0x01C, 0x024, 0x034, 0x038] ∨ (0x060 ≤ off ∧ off < 0x080) ∨
      (0x100 ≤ off ∧ off < 0x140)) : (slotOf off).readOnly = true := by
  rcases h with h | ⟨hge, hlt⟩ | ⟨hge, hlt⟩
  · have hlow : off < 0x040 := by simp at h; omega
    rw [slotOf_low off hlow]
    exact registerSlot_readOnly h
  · obtain ⟨l, rfl⟩ : ∃ l, off = 0x060 + 4 * l := ⟨(off - 0x060) / 4, by omega⟩
    rw [slotOf_langTab l (by omega), Slot.readOnly]
  · obtain ⟨w, rfl⟩ : ∃ w, off = 0x100 + 4 * w := ⟨(off - 0x100) / 4, by omega⟩
    rw [slotOf_seed w (by omega), Slot.readOnly]

/-- Settles O51: what stands at each offset decides it, whatever the phase. -/
theorem reservedAndReadOnlyOffsets : Obligations.ReservedAndReadOnlyOffsets := by
  intro p s off v hword
  refine ⟨fun hres => ?_, fun hro => ?_, rfl, rfl⟩
  · rw [readAt, writeAt, slotOf_reserved hres]
    exact ⟨rfl, rfl⟩
  · rw [writeAt]
    exact writeSlot_of_readOnly (slotOf_readOnly hword hro) s v

end Sys2Proof.Machine
end

section
/-! PROOFS. The decoder and the encoder are inverse to each other, and the words no command has (30_encoding.md R91, R92,
R94). -/

namespace Sys2Proof

/-- MBZ, bits 31:8 of a word, as a number (30_encoding.md R90). -/
theorem mbz_eq_zero_iff (v : Word) : v.extractLsb' 8 24 = 0#24 ↔ v.toNat / 256 = 0 := by
  have hv := v.isLt
  rw [← BitVec.toNat_inj, BitVec.extractLsb'_toNat, Nat.shiftRight_eq_div_pow, BitVec.toNat_zero]
  omega

/-- OPC, bits 7:0 of a word, as a number (30_encoding.md R90). -/
theorem opc_toNat (v : Word) : (v.extractLsb' 0 8).toNat = v.toNat % 256 := by
  rw [BitVec.extractLsb'_toNat, Nat.shiftRight_zero]

theorem encode_toNat (i : Instr) : (encode i).toNat = (opcode i).toNat := by cases i <;> rfl

theorem opcode_bounds (i : Instr) : 1 ≤ (opcode i).toNat ∧ (opcode i).toNat ≤ 9 := by cases i <;> decide

/-- The nine opcodes leave no gap (30_encoding.md R91). -/
theorem instrOfOpcode_eq_none_iff (n : Nat) : instrOfOpcode n = none ↔ n = 0 ∨ 9 < n := by
  constructor
  · intro h
    by_contra hn
    have hpos : 1 ≤ n := by omega
    have hle : n ≤ 9 := by omega
    interval_cases n <;> cases h
  · intro hout
    cases hi : instrOfOpcode n with
    | none => rfl
    | some i =>
      have hopc := instrOfOpcode_opcode hi
      have hbounds := opcode_bounds i
      omega

/-- What the decoder answers, by the fields MBZ and OPC of the word (30_encoding.md R92). -/
theorem decode_cases (v : Word) :
    (v.toNat / 256 ≠ 0 ∧ decode v = .error .mbzNotZero) ∨
    (v.toNat / 256 = 0 ∧ instrOfOpcode (v.toNat % 256) = none ∧ decode v = .error .opcodeUnknown) ∨
    ∃ i, v.toNat / 256 = 0 ∧ instrOfOpcode (v.toNat % 256) = some i ∧ decode v = .ok i := by
  simp only [decode, opc_toNat, ne_eq, mbz_eq_zero_iff]
  by_cases hmbz : v.toNat / 256 = 0
  · cases hopc : instrOfOpcode (v.toNat % 256) with
    | none => exact .inr (.inl ⟨hmbz, rfl, if_neg (not_not.2 hmbz)⟩)
    | some i => exact .inr (.inr ⟨i, hmbz, rfl, if_neg (not_not.2 hmbz)⟩)
  · exact .inl ⟨hmbz, if_pos hmbz⟩

/-- A word decodes to a command exactly when it is that command's word (30_encoding.md R91). -/
theorem decode_eq_ok_iff (v : Word) (i : Instr) : decode v = .ok i ↔ v = encode i := by
  constructor
  · intro h
    rcases decode_cases v with ⟨-, he⟩ | ⟨-, -, he⟩ | ⟨j, hmbz, hopc, hj⟩
    · simp [he] at h
    · simp [he] at h
    · obtain rfl : j = i := by simpa [hj] using h
      have hlow := instrOfOpcode_opcode hopc
      apply BitVec.eq_of_toNat_eq
      rw [encode_toNat]
      omega
  · rintro rfl
    exact decode_encode i

/-- The words no command has (30_encoding.md R94). -/
theorem decode_eq_error_iff (v : Word) :
    (∃ e, decode v = .error e) ↔ v.toNat / 256 ≠ 0 ∨ v.toNat % 256 = 0 ∨ 9 < v.toNat % 256 := by
  rw [← instrOfOpcode_eq_none_iff]
  rcases decode_cases v with ⟨hmbz, h⟩ | ⟨hmbz, hopc, h⟩ | ⟨i, hmbz, hopc, h⟩
  · simp [h, hmbz]
  · simp [h, hopc]
  · simp [h, hmbz, hopc]

/-- The rows of the opcode map are the nine commands, each with its word and a full mask (30_encoding.md R91). -/
theorem mem_opcodeMap_iff (r : OpcodeRow) : r ∈ opcodeMap ↔ r = ⟨0xFFFFFFFF, encode r.command, r.command⟩ := by
  constructor
  · intro h
    simp only [opcodeMap, List.mem_cons, List.not_mem_nil, or_false] at h
    rcases h with rfl | rfl | rfl | rfl | rfl | rfl | rfl | rfl | rfl <;> rfl
  · intro h
    rw [h]
    cases r.command <;> decide

theorem and_fullMask (v : Word) : v &&& 0xFFFFFFFF = v := BitVec.and_allOnes

/-- A word selects a row of the opcode map exactly when it is the word of the row's command (30_encoding.md R91). -/
theorem selects_row_iff (v : Word) (i : Instr) :
    (∃ r ∈ opcodeMap, r.command = i ∧ r.mask = 0xFFFFFFFF ∧ v &&& r.mask = r.pattern) ↔ v = encode i := by
  constructor
  · rintro ⟨r, hr, rfl, hmask, hv⟩
    rw [mem_opcodeMap_iff] at hr
    rw [hmask, and_fullMask, hr] at hv
    exact hv
  · intro hv
    exact ⟨⟨0xFFFFFFFF, encode i, i⟩, (mem_opcodeMap_iff _).2 rfl, rfl, rfl, (and_fullMask v).trans hv⟩

/-- Settles O2: a word decodes to a command, and selects its row, exactly when it is the command's word. -/
theorem decodeSelectsTheOneEncoding : Obligations.DecodeSelectsTheOneEncoding := fun v i =>
  ⟨decode_eq_ok_iff v i, (decode_eq_ok_iff v i).trans (selects_row_iff v i).symm, decode_eq_error_iff v⟩

end Sys2Proof
end

section
/-! PROOFS. The wordlist engine: language resolution, word search, tokens (40_wordlist_rom.md R110, R117, R119). -/

namespace Sys2Proof.Machine

/-! ### Language resolution -/

/-- Below NLANG the language table holds the packed codes (10_state.md R35). -/
theorem langTabWord_eq_packCode (l : LangId) :
    langTabWord l.val = packCode (Config.langCodes[l.val]?.getD []) := by
  revert l
  decide

/-- The packed codes are pairwise different (00_scope.md R7). -/
theorem langTabWord_injective : Function.Injective (fun l : LangId => langTabWord l.val) := by
  unfold Function.Injective
  decide

theorem matchLang_eq_none_iff (x : Word) : matchLang x = none ↔ ∀ l : LangId, langTabWord l.val ≠ x := by
  have hall : ∀ l : LangId, l ∈ ([0, 1, 2, 3, 4, 5, 6] : List LangId) := by decide
  simp [matchLang, -List.mem_cons, hall]

theorem matchLang_langTabWord (l : LangId) : matchLang (langTabWord l.val) = some l := by
  cases h : matchLang (langTabWord l.val) with
  | none => exact absurd rfl ((matchLang_eq_none_iff _).1 h l)
  | some k =>
    have hk : langTabWord k.val = langTabWord l.val := by simpa using List.find?_some h
    rw [langTabWord_injective hk]

/-- Settles O13: a packed code is matched by its own language only, and no other word is matched. -/
theorem languageResolution : Obligations.LanguageResolution := by
  refine ⟨fun l => ?_, fun x hx => ?_, by decide, by decide, by decide, by decide, by decide⟩
  · simp only [← langTabWord_eq_packCode, resolveLid, resolveMatch, matchLang_langTabWord, Option.getD_some,
      Option.isSome_some, and_self]
  · have hnone : matchLang x = none :=
      (matchLang_eq_none_iff x).2 fun l => langTabWord_eq_packCode l ▸ (hx l).symm
    simp only [resolveLid, resolveMatch, hnone, Option.getD_none, Option.isSome_none, and_self]

/-! ### Word search -/

theorem findWord_eq_some_iff (p : Platform) (l : LangId) (w : Bytes) (i : Nat) :
    findWord p l w = some i ↔ i < 2048 ∧ word p l i = w ∧ ∀ j < i, word p l j ≠ w := by
  simp only [findWord, List.find?_range'_eq_some, beq_iff_eq, List.mem_range'_1, Nat.zero_le, true_and, zero_add,
    Bool.not_eq_true', beq_eq_false_iff_ne, forall_const, Config.nWords, and_left_comm]

theorem findWord_eq_none_iff (p : Platform) (l : LangId) (w : Bytes) :
    findWord p l w = none ↔ ∀ j < 2048, word p l j ≠ w := by
  simp [findWord]

/-- Settles O15: the search is a scan from index 0 upward, and below 2048 `word` is the ROM's entry. -/
theorem findIsTheSmallestIndex : Obligations.FindIsTheSmallestIndex := by
  intro p l w
  refine ⟨fun i => ?_, ?_⟩
  · rw [findWord_eq_some_iff, ← exists_prop]
    refine exists_congr fun hi => and_congr (by rw [word_of_lt p l i hi]) ?_
    exact ⟨fun h j hj => word_of_lt p l j j.isLt ▸ h j hj,
      fun h j hj => word_of_lt p l j (hj.trans hi) ▸ h ⟨j, hj.trans hi⟩ hj⟩
  · rw [findWord_eq_none_iff, Fin.forall_iff]
    exact forall₂_congr fun j hj => by rw [word_of_lt p l j hj]

/-! ### Tokens -/

theorem isWs_eq_true_iff (b : Byte) : isWs b = true ↔ b ∈ [0x09, 0x0A, 0x0B, 0x0C, 0x0D, 0x20] :=
  List.contains_iff_mem

theorem tokenStart_iff (x : Bytes) (q : Nat) :
    tokenStart x q = true ↔
      ∃ b, x[q]? = some b ∧ isWs b = false ∧ (q = 0 ∨ isWs (x[q - 1]?.getD Config.sep) = true) := by
  cases h : x[q]? <;> simp [tokenStart, h]

/-- The bytes outside WS from the front of a string on, as far as they go (40_wordlist_rom.md R117). -/
def firstRun (x : Bytes) : Bytes := x.takeWhile (fun b => !isWs b)

theorem firstRun_cons_of_ws {b : Byte} (h : isWs b = true) (x : Bytes) : firstRun (b :: x) = [] := by
  simp [firstRun, h]

theorem firstRun_cons_of_nonWs {b : Byte} (h : isWs b = false) (x : Bytes) :
    firstRun (b :: x) = b :: firstRun x := by
  simp [firstRun, h]

theorem isWs_of_mem_firstRun {b : Byte} {x : Bytes} (h : b ∈ firstRun x) : isWs b = false := by
  simpa using List.mem_takeWhile_imp h

theorem firstRun_drop_ne_nil {x : Bytes} {q : Nat} (h : tokenStart x q = true) : firstRun (x.drop q) ≠ [] := by
  obtain ⟨b, hb, hws, -⟩ := (tokenStart_iff x q).1 h
  obtain ⟨hq, rfl⟩ := List.getElem?_eq_some_iff.1 hb
  rw [List.drop_eq_getElem_cons hq, firstRun_cons_of_nonWs hws]
  exact List.cons_ne_nil _ _

/-- The tokens that start in `x` when the byte `a` stands before it (40_wordlist_rom.md R117). -/
def runsAfter (a : Byte) (x : Bytes) : List Bytes :=
  ((List.range x.length).filter (fun q => tokenStart (a :: x) (q + 1))).map (fun q => firstRun (x.drop q))

/-- The start of a string counts as the byte after a separator (40_wordlist_rom.md R117). -/
theorem tokenStart_sep_cons (x : Bytes) (q : Nat) : tokenStart (Config.sep :: x) (q + 1) = tokenStart x q := by
  have hsep : isWs Config.sep = true := by decide
  cases q <;> simp [tokenStart, hsep]

theorem runsAfter_sep (x : Bytes) :
    runsAfter Config.sep x =
      ((List.range x.length).filter (tokenStart x)).map (fun q => firstRun (x.drop q)) := by
  simp only [runsAfter, tokenStart_sep_cons]

theorem runsAfter_nil (a : Byte) : runsAfter a [] = [] := rfl

/-- A token starts at the first byte exactly when that byte is the first one outside WS. -/
theorem runsAfter_cons (a b : Byte) (x : Bytes) :
    runsAfter a (b :: x) =
      if isWs a = true ∧ isWs b = false then firstRun (b :: x) :: runsAfter b x else runsAfter b x := by
  have hfirst : tokenStart (a :: b :: x) 1 = true ↔ isWs a = true ∧ isWs b = false := by
    simp [tokenStart, and_comm]
  have hlater (q : Nat) : tokenStart (a :: b :: x) (q + 2) = tokenStart (b :: x) (q + 1) := by simp [tokenStart]
  simp only [runsAfter, List.length_cons, List.range_succ_eq_map, List.filter_cons, zero_add, hfirst,
    List.filter_map, Function.comp_def, Nat.succ_eq_add_one, hlater]
  split_ifs <;> simp [Function.comp_def]

theorem tokensFrom_nil_of_ne_nil {cur : Bytes} (h : cur ≠ []) : tokensFrom cur [] = [cur] := by
  simp [tokensFrom, h]

theorem tokensFrom_nil_cons_of_ws {b : Byte} (h : isWs b = true) (x : Bytes) :
    tokensFrom [] (b :: x) = tokensFrom [] x := by
  simp [tokensFrom, h]

theorem tokensFrom_cons_of_ws {cur : Bytes} {b : Byte} (hcur : cur ≠ []) (h : isWs b = true) (x : Bytes) :
    tokensFrom cur (b :: x) = cur :: tokensFrom [] x := by
  simp [tokensFrom, h, hcur]

theorem tokensFrom_cons_of_nonWs (cur : Bytes) {b : Byte} (h : isWs b = false) (x : Bytes) :
    tokensFrom cur (b :: x) = tokensFrom (cur ++ [b]) x := by
  simp [tokensFrom, h]

/-- Inside a token the scan completes it with the run ahead; after a byte of WS, only the later tokens are left. The
byte `a` is the last one read. -/
theorem tokensFrom_eq_runsAfter (x : Bytes) :
    (∀ a, isWs a = true → tokensFrom [] x = runsAfter a x) ∧
    (∀ a cur, isWs a = false → cur ≠ [] → tokensFrom cur x = (cur ++ firstRun x) :: runsAfter a x) := by
  induction x with
  | nil =>
    refine ⟨fun _ _ => rfl, fun a cur _ hcur => ?_⟩
    rw [tokensFrom_nil_of_ne_nil hcur, runsAfter_nil, firstRun, List.takeWhile_nil, List.append_nil]
  | cons b x ih =>
    obtain ⟨ihBetween, ihInside⟩ := ih
    cases hb : isWs b with
    | true =>
      refine ⟨fun a _ => ?_, fun a cur _ hcur => ?_⟩
      · rw [tokensFrom_nil_cons_of_ws hb, ihBetween b hb, runsAfter_cons, if_neg (by simp [hb])]
      · rw [tokensFrom_cons_of_ws hcur hb, ihBetween b hb, runsAfter_cons, if_neg (by simp [hb]),
          firstRun_cons_of_ws hb, List.append_nil]
    | false =>
      refine ⟨fun a ha => ?_, fun a cur ha _ => ?_⟩
      · rw [tokensFrom_cons_of_nonWs [] hb, ihInside b _ hb (by simp), runsAfter_cons, if_pos ⟨ha, hb⟩,
          firstRun_cons_of_nonWs hb, List.nil_append, List.singleton_append]
      · rw [tokensFrom_cons_of_nonWs cur hb, ihInside b _ hb (by simp), runsAfter_cons, if_neg (by simp [ha]),
          firstRun_cons_of_nonWs hb, List.append_assoc, List.singleton_append]

theorem tokens_eq_runs (x : Bytes) :
    tokens x = ((List.range x.length).filter (tokenStart x)).map (fun q => firstRun (x.drop q)) :=
  ((tokensFrom_eq_runsAfter x).1 Config.sep (by decide)).trans (runsAfter_sep x)

/-- Every token but an open one takes a byte and the byte of WS before it. -/
theorem two_mul_length_tokensFrom_le (x cur : Bytes) :
    2 * (tokensFrom cur x).length ≤ x.length + 1 + (if cur = [] then 0 else 1) := by
  induction x generalizing cur with
  | nil => by_cases hcur : cur = [] <;> simp [tokensFrom, hcur]
  | cons b x ih =>
    cases hb : isWs b with
    | true =>
      have ihBetween := ih []
      rw [if_pos rfl] at ihBetween
      by_cases hcur : cur = []
      · rw [hcur, tokensFrom_nil_cons_of_ws hb, List.length_cons, if_pos rfl]
        omega
      · rw [tokensFrom_cons_of_ws hcur hb, List.length_cons, List.length_cons, if_neg hcur]
        omega
    | false =>
      have ihInside := ih (cur ++ [b])
      rw [if_neg (by simp)] at ihInside
      rw [tokensFrom_cons_of_nonWs cur hb, List.length_cons]
      omega

/-- A token starts at a position of the string and is the run from there. -/
theorem mem_tokens {x t : Bytes} (h : t ∈ tokens x) : ∃ q, tokenStart x q = true ∧ t = firstRun (x.drop q) := by
  rw [tokens_eq_runs, List.mem_map] at h
  obtain ⟨q, hq, rfl⟩ := h
  exact ⟨q, (List.mem_filter.1 hq).2, rfl⟩

/-- Settles O16: the scan reads off the runs at the token starts, and the rest follows from what a start is. -/
theorem tokensAreMaximalRuns : Obligations.TokensAreMaximalRuns := by
  intro x
  refine ⟨tokens_eq_runs x, fun t ht => ?_, fun hx => ?_, ?_, isWs_eq_true_iff⟩
  · obtain ⟨q, hq, rfl⟩ := mem_tokens ht
    exact ⟨firstRun_drop_ne_nil hq, fun _ => isWs_of_mem_firstRun⟩
  · rw [List.eq_nil_iff_forall_not_mem]
    intro t ht
    obtain ⟨q, hq, -⟩ := mem_tokens ht
    obtain ⟨b, hb, hws, -⟩ := (tokenStart_iff x q).1 hq
    simp [hx b (List.mem_of_getElem? hb)] at hws
  · simpa [tokens] using two_mul_length_tokensFrom_le x []

end Sys2Proof.Machine
end

section
/-! PROOFS. The bit-packer's arithmetic: groups, the stream of an index list, and packing as the inverse of the split
(42_bitpacker.md R142 to R147). -/

namespace Sys2Proof.Machine

/-! ### Numbers read from a stream, most significant bit first -/

theorem msbNat_eq_sum (f : Nat → Nat) (n : Nat) : msbNat f n = ∑ k ∈ Finset.range n, f k * 2 ^ (n - 1 - k) := by
  induction n with
  | zero => rfl
  | succ n ih =>
    have hdouble :
        ∑ k ∈ Finset.range n, f k * 2 ^ (n - k) = 2 * ∑ k ∈ Finset.range n, f k * 2 ^ (n - 1 - k) := by
      rw [Finset.mul_sum]
      refine Finset.sum_congr rfl fun k hk => ?_
      have hpow : n - k = n - 1 - k + 1 := by have := Finset.mem_range.1 hk; omega
      rw [hpow, pow_succ']
      ring
    rw [msbNat, ih, Finset.sum_range_succ, Nat.add_sub_cancel, hdouble, Nat.sub_self, pow_zero, mul_one]

theorem msbNat_add (f : Nat → Nat) (m n : Nat) :
    msbNat f (m + n) = msbNat f m * 2 ^ n + msbNat (fun k => f (m + k)) n := by
  induction n with
  | zero => simp [msbNat]
  | succ n ih =>
    rw [← Nat.add_assoc, msbNat, msbNat, ih]
    ring

section
variable {f g : Nat → Nat} (hf : ∀ k, f k < 2)
include hf

/-- The front of a stream is read by cutting off the bits after it. -/
theorem msbNat_front_eq_div (m n : Nat) : msbNat f m = msbNat f (m + n) / 2 ^ n := by
  have hrest := msbNat_lt _ (fun k => hf (m + k)) n
  rw [msbNat_add, Nat.add_div_of_dvd_right (dvd_mul_left _ _), Nat.mul_div_cancel _ (Nat.two_pow_pos n),
    Nat.div_eq_of_lt hrest, Nat.add_zero]

/-- The end of a stream is read by cutting off the bits before it. -/
theorem msbNat_back_eq_mod (m n : Nat) : msbNat (fun k => f (m + k)) n = msbNat f (m + n) % 2 ^ n := by
  rw [msbNat_add, Nat.mul_add_mod_self_right, Nat.mod_eq_of_lt (msbNat_lt _ (fun k => hf (m + k)) n)]

theorem msbNat_inj (hg : ∀ k, g k < 2) {n : Nat} (h : msbNat f n = msbNat g n) {k : Nat} (hk : k < n) :
    f k = g k := by
  rw [← msbNat_div_mod f hf n k hk, h, msbNat_div_mod g hg n k hk]

end

/-! ### Groups of a byte string -/

theorem bit_byte (x : Bytes) (m : Nat) {k : Nat} (hk : k < 8) :
    bit x (8 * m + k) = (x[m]?.getD 0).toNat / 2 ^ (7 - k) % 2 := by
  have hdiv : (8 * m + k) / 8 = m := by omega
  have hmod : (8 * m + k) % 8 = k := by omega
  rw [bit, hdiv, hmod]

/-- Eight bits of the stream from a multiple of eight on are a byte (00_scope.md R11). -/
theorem msbNat_bit_byte (x : Bytes) (m : Nat) : msbNat (fun k => bit x (8 * m + k)) 8 = (x[m]?.getD 0).toNat := by
  rw [msbNat_congr _ _ 8 fun k hk => bit_byte x m hk]
  exact msbNat_bits _ 8 (BitVec.isLt _)

theorem msbNat_bit_three_bytes (x : Bytes) (m : Nat) :
    msbNat (fun k => bit x (8 * m + k)) 24 =
      (x[m]?.getD 0).toNat * 2 ^ 16 + (x[m + 1]?.getD 0).toNat * 2 ^ 8 + (x[m + 2]?.getD 0).toNat := by
  have hshift (b k : Nat) : 8 * m + (8 * b + k) = 8 * (m + b) + k := by ring
  have hsecond := msbNat_bit_byte x (m + 1)
  have hthird := msbNat_bit_byte x (m + 2)
  simp only [← hshift] at hsecond hthird
  rw [msbNat_add _ 16 8, msbNat_add _ 8 8, msbNat_bit_byte, hsecond, hthird]
  ring

theorem group_eq_sum (x : Bytes) (i : Nat) :
    group x i = ∑ k ∈ Finset.range 11,
      ((x[(11 * i + k) / 8]?.getD 0).toNat / 2 ^ (7 - (11 * i + k) % 8)) % 2 * 2 ^ (10 - k) :=
  msbNat_eq_sum _ 11

/-- A group is a window of three bytes: the bits before it are cut off by the remainder, those after it by the
division (42_bitpacker.md R142). -/
theorem group_eq_window (x : Bytes) (i : Nat) :
    group x i =
      (((x[11 * i / 8]?.getD 0).toNat * 2 ^ 16 + (x[11 * i / 8 + 1]?.getD 0).toNat * 2 ^ 8 +
        (x[11 * i / 8 + 2]?.getD 0).toNat) / 2 ^ (13 - 11 * i % 8)) % 2 ^ 11 := by
  have hbit (k : Nat) : bit x (8 * (11 * i / 8) + k) < 2 := bit_lt _ _
  have hpos (k : Nat) : 8 * (11 * i / 8) + (11 * i % 8 + k) = 11 * i + k := by omega
  have hlen : 11 * i % 8 + 11 + (13 - 11 * i % 8) = 24 := by omega
  have hback := msbNat_back_eq_mod hbit (11 * i % 8) 11
  rw [msbNat_front_eq_div hbit _ (13 - 11 * i % 8), hlen, msbNat_bit_three_bytes] at hback
  simp only [hpos] at hback
  exact hback

/-- Settles O18: a group is eleven bits of the stream; the third byte is 0 past the end by the model's `getD`. -/
theorem groupIsElevenBits : Obligations.GroupIsElevenBits :=
  fun x i _ => ⟨group_eq_sum x i, group_eq_window x i⟩

/-! ### The stream of an index list -/

theorem streamBit_index (xs : List Nat) (i : Nat) {k : Nat} (hk : k < 11) :
    streamBit xs (11 * i + k) = xs[i]?.getD 0 / 2 ^ (10 - k) % 2 := by
  have hdiv : (11 * i + k) / 11 = i := by omega
  have hmod : (11 * i + k) % 11 = k := by omega
  rw [streamBit, hdiv, hmod]

/-- Eleven bits of the stream from a multiple of eleven on are an index (42_bitpacker.md R144). -/
theorem msbNat_streamBit_index {xs : List Nat} {i : Nat} (h : xs[i]?.getD 0 < 2048) :
    msbNat (fun k => streamBit xs (11 * i + k)) 11 = xs[i]?.getD 0 := by
  rw [msbNat_congr _ _ 11 fun k hk => streamBit_index xs i hk]
  exact msbNat_bits _ 11 h

@[simp] theorem length_splitEntropy (xs : List Nat) : (splitEntropy xs).length = entLenOfWords xs.length := by
  simp [splitEntropy]

theorem toNat_splitEntropy {xs : List Nat} {m : Nat} (h : m < entLenOfWords xs.length) :
    ((splitEntropy xs)[m]?.getD 0).toNat = msbNat (fun k => streamBit xs (8 * m + k)) 8 := by
  have hbyte := msbNat_lt (fun k => streamBit xs (8 * m + k)) (fun _ => streamBit_lt _ _) 8
  simpa [splitEntropy, h] using hbyte

/-- The whole stream of a valid list is the entropy and the checksum part, nothing else (42_bitpacker.md R141). -/
theorem stream_length {n : Nat} (h : n ∈ [12, 15, 18, 21, 24]) :
    8 * entLenOfWords n + csWidthOfWords n = 11 * n := by
  revert n
  decide

theorem csWidthOfWords_le {n : Nat} (h : n ∈ [12, 15, 18, 21, 24]) : csWidthOfWords n ≤ 8 := by
  revert n
  decide

theorem getD_index_lt {xs : List Nat} (h : ∀ x ∈ xs, x < 2048) (i : Nat) : xs[i]?.getD 0 < 2048 := by
  cases hi : xs[i]? with
  | none => simp
  | some x => exact h x (List.mem_of_getElem? hi)

theorem splitChecksum_eq_mod {xs : List Nat} (hlen : xs.length ∈ [12, 15, 18, 21, 24])
    (hlast : xs[xs.length - 1]?.getD 0 < 2048) :
    splitChecksum xs = xs[xs.length - 1]?.getD 0 % 2 ^ csWidthOfWords xs.length := by
  have hstream := stream_length hlen
  have hwidth := csWidthOfWords_le hlen
  have hne : 1 ≤ xs.length := by simp at hlen; omega
  have hpos (k : Nat) : 11 * (xs.length - 1) + (11 - csWidthOfWords xs.length + k) =
      8 * entLenOfWords xs.length + k := by omega
  have hindex : 11 - csWidthOfWords xs.length + csWidthOfWords xs.length = 11 := by omega
  have hback := msbNat_back_eq_mod (f := fun k => streamBit xs (11 * (xs.length - 1) + k)) (fun _ => streamBit_lt _ _)
    (11 - csWidthOfWords xs.length) (csWidthOfWords xs.length)
  rw [hindex, msbNat_streamBit_index hlast] at hback
  simp only [hpos] at hback
  exact hback

/-- Settles O19: the two parts of the stream are read most significant bit first, and the checksum part is the end of
the last index. -/
theorem splitOfAnIndexList : Obligations.SplitOfAnIndexList := by
  intro xs hlen hbound
  refine ⟨length_splitEntropy xs, fun m hm => ?_, msbNat_eq_sum _ _,
    splitChecksum_eq_mod hlen (getD_index_lt hbound _)⟩
  rw [toNat_splitEntropy hm]
  exact msbNat_eq_sum _ 8

/-! ### Strings and lists are determined by their streams -/

theorem bytes_eq_of_bit {x y : Bytes} (hlen : x.length = y.length) (h : ∀ j < 8 * x.length, bit x j = bit y j) :
    x = y := by
  refine List.ext_getElem hlen fun m hx hy => BitVec.eq_of_toNat_eq ?_
  have hbytes : msbNat (fun k => bit x (8 * m + k)) 8 = msbNat (fun k => bit y (8 * m + k)) 8 :=
    msbNat_congr _ _ 8 fun k hk => h _ (by omega)
  simpa [msbNat_bit_byte, hx, hy] using hbytes

theorem indices_eq_of_streamBit {xs ys : List Nat} (hlen : xs.length = ys.length) (hxs : ∀ x ∈ xs, x < 2048)
    (hys : ∀ y ∈ ys, y < 2048) (h : ∀ j < 11 * xs.length, streamBit xs j = streamBit ys j) : xs = ys := by
  refine List.ext_getElem hlen fun i hx hy => ?_
  have hindex : msbNat (fun k => streamBit xs (11 * i + k)) 11 = msbNat (fun k => streamBit ys (11 * i + k)) 11 :=
    msbNat_congr _ _ 11 fun k hk => h _ (by omega)
  rw [msbNat_streamBit_index (getD_index_lt hxs i), msbNat_streamBit_index (getD_index_lt hys i)] at hindex
  simpa [hx, hy] using hindex

/-! ### The working buffer -/

theorem bit_workingBuffer_of_lt (p : Platform) {e : Bytes} {j : Nat} (h : j < 8 * e.length) :
    bit (workingBuffer p e) j = bit e j := by
  rw [bit, bit, workingBuffer, List.getElem?_append_left (by omega)]

/-- The checksum is the stream of the working buffer past the entropy (41_checksum.md R133, R134). -/
theorem checksumOf_eq_msbNat (p : Platform) (e : Bytes) {c : Nat} (hc : c ≤ 8) :
    checksumOf p e c = msbNat (fun k => bit (workingBuffer p e) (8 * e.length + k)) c := by
  have hdigest : msbNat (fun k => bit (workingBuffer p e) (8 * e.length + k)) 8 = (digestByte p e).toNat := by
    rw [msbNat_bit_byte]
    simp [workingBuffer]
  rw [msbNat_front_eq_div (fun _ => bit_lt _ _) c (8 - c), Nat.add_sub_cancel' hc, hdigest, checksumOf]

/-! ### PACK and UNPACK on byte strings and index lists -/

theorem numWords_mem {len : Nat} (h : len ∈ [16, 20, 24, 28, 32]) : numWords len ∈ [12, 15, 18, 21, 24] := by
  revert len
  decide

theorem entLenOfWords_numWords {len : Nat} (h : len ∈ [16, 20, 24, 28, 32]) : entLenOfWords (numWords len) = len := by
  revert len
  decide

theorem entLenOfWords_mem {n : Nat} (h : n ∈ [12, 15, 18, 21, 24]) : entLenOfWords n ∈ [16, 20, 24, 28, 32] := by
  revert n
  decide

theorem numWords_entLenOfWords {n : Nat} (h : n ∈ [12, 15, 18, 21, 24]) : numWords (entLenOfWords n) = n := by
  revert n
  decide

@[simp] theorem length_packIndices (p : Platform) (e : Bytes) : (packIndices p e).length = numWords e.length := by
  simp [packIndices]

theorem packIndices_lt {p : Platform} {e : Bytes} {x : Nat} (h : x ∈ packIndices p e) : x < 2048 := by
  obtain ⟨i, -, rfl⟩ := List.mem_map.1 h
  exact group_lt _ i

/-- The stream of the packed indices is the front of the working buffer's (42_bitpacker.md R147). -/
theorem streamBit_packIndices (p : Platform) {e : Bytes} {j : Nat} (h : j < 11 * numWords e.length) :
    streamBit (packIndices p e) j = bit (workingBuffer p e) j := by
  have hindex : (packIndices p e)[j / 11]?.getD 0 = group (workingBuffer p e) (j / 11) := by
    have hi : j / 11 < numWords e.length := by omega
    simp [packIndices, hi]
  have hbit := msbNat_div_mod (fun k => bit (workingBuffer p e) (11 * (j / 11) + k)) (fun _ => bit_lt _ _) 11
    (j % 11) (Nat.mod_lt _ (by omega))
  rw [Nat.div_add_mod] at hbit
  rw [streamBit, hindex]
  exact hbit

theorem bit_splitEntropy {xs : List Nat} {j : Nat} (h : j < 8 * entLenOfWords xs.length) :
    bit (splitEntropy xs) j = streamBit xs j := by
  have hbit := msbNat_div_mod (fun k => streamBit xs (8 * (j / 8) + k)) (fun _ => streamBit_lt _ _) 8
    (j % 8) (Nat.mod_lt _ (by omega))
  rw [Nat.div_add_mod, ← toNat_splitEntropy (by omega)] at hbit
  exact hbit

section
variable {p : Platform} {e : Bytes} (he : e.length ∈ [16, 20, 24, 28, 32])
include he

theorem splitEntropy_packIndices : splitEntropy (packIndices p e) = e := by
  have hstream := stream_length (numWords_mem he)
  have hlen : entLenOfWords (packIndices p e).length = e.length := by
    rw [length_packIndices, entLenOfWords_numWords he]
  rw [entLenOfWords_numWords he] at hstream
  refine bytes_eq_of_bit ((length_splitEntropy _).trans hlen) fun j hj => ?_
  rw [length_splitEntropy, hlen] at hj
  rw [bit_splitEntropy (by rwa [hlen]), streamBit_packIndices p (by omega), bit_workingBuffer_of_lt p hj]

theorem splitChecksum_packIndices :
    splitChecksum (packIndices p e) = checksumOf p e (csWidthOfWords (numWords e.length)) := by
  have hstream := stream_length (numWords_mem he)
  rw [entLenOfWords_numWords he] at hstream
  rw [splitChecksum, length_packIndices, entLenOfWords_numWords he,
    checksumOf_eq_msbNat p e (csWidthOfWords_le (numWords_mem he))]
  exact msbNat_congr _ _ _ fun k hk => streamBit_packIndices p (by omega)

end

/-- A right checksum makes the working buffer of the recovered entropy agree with the list on its whole stream. -/
theorem bit_workingBuffer_splitEntropy {p : Platform} {xs : List Nat} (hlen : xs.length ∈ [12, 15, 18, 21, 24])
    (hcs : checksumOf p (splitEntropy xs) (csWidthOfWords xs.length) = splitChecksum xs)
    {j : Nat} (hj : j < 11 * xs.length) : bit (workingBuffer p (splitEntropy xs)) j = streamBit xs j := by
  have hstream := stream_length hlen
  rcases Nat.lt_or_ge j (8 * entLenOfWords xs.length) with hlow | hhigh
  · rw [bit_workingBuffer_of_lt p (by rwa [length_splitEntropy]), bit_splitEntropy hlow]
  · obtain ⟨k, rfl⟩ := Nat.exists_eq_add_of_le hhigh
    rw [checksumOf_eq_msbNat p _ (csWidthOfWords_le hlen), length_splitEntropy, splitChecksum] at hcs
    exact msbNat_inj (fun _ => bit_lt _ _) (fun _ => streamBit_lt _ _) hcs (by omega)

theorem packIndices_splitEntropy {p : Platform} {xs : List Nat} (hlen : xs.length ∈ [12, 15, 18, 21, 24])
    (hbound : ∀ x ∈ xs, x < 2048)
    (hcs : checksumOf p (splitEntropy xs) (csWidthOfWords xs.length) = splitChecksum xs) :
    packIndices p (splitEntropy xs) = xs := by
  have hwords : numWords (splitEntropy xs).length = xs.length := by
    rw [length_splitEntropy, numWords_entLenOfWords hlen]
  refine indices_eq_of_streamBit ((length_packIndices p _).trans hwords) (fun _ => packIndices_lt) hbound fun j hj => ?_
  rw [length_packIndices] at hj
  rw [streamBit_packIndices p hj, bit_workingBuffer_splitEntropy hlen hcs (hwords ▸ hj)]

end Sys2Proof.Machine
end

section
/-! PROOFS. The commands PACK and UNPACK and their round trip (42_bitpacker.md R143, R146, R147). -/

namespace Sys2Proof.Machine

/-! ### Reading back what was committed -/

theorem validLen_iff (n : Nat) : validLen n = true ↔ n ∈ [16, 20, 24, 28, 32] := List.contains_iff_mem

theorem validCnt_iff (n : Nat) : validCnt n = true ↔ n ∈ [12, 15, 18, 21, 24] := List.contains_iff_mem

theorem validLen_le {n : Nat} (h : n ∈ [16, 20, 24, 28, 32]) : n ≤ 32 := by
  revert n
  decide

theorem validCnt_le {n : Nat} (h : n ∈ [12, 15, 18, 21, 24]) : n ≤ 24 := by
  revert n
  decide

theorem length_entropy {s : State} (h : s.entLen.toNat ∈ [16, 20, 24, 28, 32]) :
    (entropy s).length = s.entLen.toNat := by
  simpa [entropy] using validLen_le h

theorem length_indices {s : State} (h : s.wordCnt.toNat ∈ [12, 15, 18, 21, 24]) :
    (indices s).length = s.wordCnt.toNat := by
  simpa [indices] using validCnt_le h

/-- The counts and indices of this unit are far below the width of a register (42_bitpacker.md R141). -/
theorem toNat_ofNat_of_le {n : Nat} (h : n ≤ 2048) : (BitVec.ofNat 32 n).toNat = n :=
  Nat.mod_eq_of_lt (h.trans_lt (by decide))

theorem ofNat_of_eq_toNat {n : Nat} {v : Word} (h : n = v.toNat) : BitVec.ofNat 32 n = v := by
  rw [h, BitVec.ofNat_toNat, BitVec.setWidth_eq]

/-- The entropy a command committed is read back. -/
theorem entropy_of_entropyWrites {s : State} {e : Bytes} (h : e.length ∈ [16, 20, 24, 28, 32])
    (hlen : s.entLen = BitVec.ofNat 32 e.length) (hent : s.ent = bytesVec 32 e) : entropy s = e := by
  have hle := validLen_le h
  rw [entropy, hlen, hent, toNat_ofNat_of_le (by omega)]
  exact take_padVec 32 0 e hle

/-- The indices a command committed are read back. -/
theorem indices_of_indexWrites {s : State} {xs : List Nat} (h : xs.length ∈ [12, 15, 18, 21, 24])
    (hbound : ∀ x ∈ xs, x < 2048) (hcnt : s.wordCnt = BitVec.ofNat 32 xs.length) (hidx : s.idx = idxVec xs) :
    indices s = xs := by
  have hle := validCnt_le h
  have hread : ∀ x ∈ xs, (BitVec.ofNat 32 x).toNat = x := fun x hx => toNat_ofNat_of_le (hbound x hx).le
  rw [indices, hcnt, hidx, toNat_ofNat_of_le (by omega), idxVec, ← List.length_map (BitVec.ofNat 32),
    take_padVec _ _ _ (by simpa using hle), List.map_map]
  exact (List.map_congr_left hread).trans (List.map_id' xs)

/-! ### The outcomes -/

/-- A command commits the writes of its body when that succeeds. -/
theorem oneShot_of_body_ok {s : State} (hs : Ready s) {p : Platform} {i : Instr} {body : Except Raise Writes}
    (hpend : (launchOf p i s).pend = .ofBody body) {w : Writes} (hw : body = .ok w) :
    oneShot p i s = commit (completed s (opcode i) none) w := by
  subst hw
  exact oneShot_ok hs.idle (.inr hs.sha) hpend

/-- A command reports no error exactly when its body succeeds. -/
theorem oneShot_err_eq_none_iff {s : State} (hs : Ready s) {p : Platform} {i : Instr} {body : Except Raise Writes}
    (hpend : (launchOf p i s).pend = .ofBody body) :
    (oneShot p i s).err = none ↔ ∃ w, body = .ok w := by
  cases body with
  | ok w => simp [oneShot_of_body_ok hs hpend rfl, completed]
  | error r => simp [oneShot_fail hs.idle (.inr hs.sha) hpend, failed, completed]

/-- What PACK answers (42_bitpacker.md R143). -/
theorem packBody_eq_ok_iff (p : Platform) (s : State) (w : Writes) :
    packBody p s = .ok w ↔
      s.entLen.toNat ∈ [16, 20, 24, 28, 32] ∧ w = indexWrites (packIndices p (entropy s)) := by
  rw [← validLen_iff, packBody, packResult]
  split_ifs with h <;> simp [h, eq_comm]

theorem firstBadIndex_eq_none_iff (xs : List Nat) : firstBadIndex xs = none ↔ ∀ x ∈ xs, x < 2048 := by
  simp [firstBadIndex, Config.nWords]

/-- What UNPACK's tests before the request let through (42_bitpacker.md R146). -/
theorem unpackIndices_eq_ok_iff (s : State) (xs : List Nat) :
    unpackIndices s = .ok xs ↔
      s.wordCnt.toNat ∈ [12, 15, 18, 21, 24] ∧ (∀ x ∈ indices s, x < 2048) ∧ xs = indices s := by
  rw [← validCnt_iff, ← firstBadIndex_eq_none_iff, unpackIndices]
  split_ifs with h
  · cases hbad : firstBadIndex (indices s) <;> simp [h, eq_comm]
  · simp [h]

/-- What UNPACK answers (42_bitpacker.md R146). -/
theorem unpackBody_eq_ok_iff (p : Platform) (s : State) (w : Writes) :
    unpackBody p s = .ok w ↔
      s.wordCnt.toNat ∈ [12, 15, 18, 21, 24] ∧ (∀ x ∈ indices s, x < 2048) ∧
        checksumOf p (splitEntropy (indices s)) (csWidthOfWords (indices s).length) = splitChecksum (indices s) ∧
        w = entropyWrites (splitEntropy (indices s)) := by
  rw [unpackBody]
  cases hxs : unpackIndices s with
  | error r =>
    refine ⟨nofun, fun ⟨hcnt, hbound, _⟩ => ?_⟩
    rw [(unpackIndices_eq_ok_iff s _).2 ⟨hcnt, hbound, rfl⟩] at hxs
    cases hxs
  | ok xs =>
    obtain ⟨hcnt, hbound, rfl⟩ := (unpackIndices_eq_ok_iff s xs).1 hxs
    simp only [verified, hcnt, true_and, and_iff_right hbound]
    split_ifs with hcs <;> simp [hcs, eq_comm]

/-! ### The round trip -/

/-- UNPACK of packed indices recovers the entropy (42_bitpacker.md R147). -/
theorem unpackBody_of_packed (p : Platform) {s : State} {e : Bytes} (he : e.length ∈ [16, 20, 24, 28, 32])
    (hcnt : s.wordCnt = BitVec.ofNat 32 (packIndices p e).length) (hidx : s.idx = idxVec (packIndices p e)) :
    unpackBody p s = .ok (entropyWrites e) := by
  have hn : (packIndices p e).length ∈ [12, 15, 18, 21, 24] := length_packIndices p e ▸ numWords_mem he
  have hx : indices s = packIndices p e := indices_of_indexWrites hn (fun _ => packIndices_lt) hcnt hidx
  have hword : s.wordCnt.toNat = (packIndices p e).length := by
    rw [hcnt, toNat_ofNat_of_le ((validCnt_le hn).trans (by decide))]
  rw [unpackBody_eq_ok_iff, hword, hx, splitEntropy_packIndices he, splitChecksum_packIndices he, length_packIndices]
  exact ⟨numWords_mem he, fun _ => packIndices_lt, rfl, rfl⟩

/-- PACK of a recovered entropy gives the indices back (42_bitpacker.md R147). -/
theorem packBody_of_unpacked {p : Platform} {s : State} {xs : List Nat} (hlen : xs.length ∈ [12, 15, 18, 21, 24])
    (hbound : ∀ x ∈ xs, x < 2048)
    (hcs : checksumOf p (splitEntropy xs) (csWidthOfWords xs.length) = splitChecksum xs)
    (hel : s.entLen = BitVec.ofNat 32 (splitEntropy xs).length) (hent : s.ent = bytesVec 32 (splitEntropy xs)) :
    packBody p s = .ok (indexWrites xs) := by
  have hvalid : (splitEntropy xs).length ∈ [16, 20, 24, 28, 32] := length_splitEntropy xs ▸ entLenOfWords_mem hlen
  have hbytes : s.entLen.toNat = (splitEntropy xs).length := by
    rw [hel, toNat_ofNat_of_le ((validLen_le hvalid).trans (by decide))]
  rw [packBody_eq_ok_iff, hbytes, entropy_of_entropyWrites hvalid hel hent, packIndices_splitEntropy hlen hbound hcs]
  exact ⟨hvalid, rfl⟩

/-- Settles O38: the stream of the indices is the front of the working buffer's, and a right checksum makes the working
buffer of the recovered entropy agree with the stream of the indices. -/
theorem packUnpackRoundTrip : Obligations.PackUnpackRoundTrip := by
  refine ⟨fun p s s' hs hs' herr hcnt hidx => ?_, fun p s s' hs hs' herr hlen hent => ?_⟩
  · obtain ⟨w, hw⟩ := (oneShot_err_eq_none_iff hs rfl).1 herr
    rw [oneShot_of_body_ok hs rfl hw] at hcnt hidx
    obtain ⟨hvalid, rfl⟩ := (packBody_eq_ok_iff p s w).1 hw
    have he := length_entropy hvalid
    rw [oneShot_of_body_ok hs' rfl (unpackBody_of_packed p (he ▸ hvalid) hcnt hidx)]
    exact ⟨rfl, ofNat_of_eq_toNat he, entropy_of_entropyWrites (he ▸ hvalid) rfl rfl⟩
  · obtain ⟨w, hw⟩ := (oneShot_err_eq_none_iff hs rfl).1 herr
    rw [oneShot_of_body_ok hs rfl hw] at hlen hent
    obtain ⟨hvalid, hbound, hcs, rfl⟩ := (unpackBody_eq_ok_iff p s w).1 hw
    have hn := length_indices hvalid
    rw [oneShot_of_body_ok hs' rfl (packBody_of_unpacked (hn ▸ hvalid) hbound hcs hlen hent)]
    exact ⟨rfl, ofNat_of_eq_toNat hn, indices_of_indexWrites (hn ▸ hvalid) hbound rfl rfl⟩

end Sys2Proof.Machine
end

section
/-! PROOFS. The whole codec: CHECK against DECODE, ENCODE as PACK then LOOKUP, DECODE as SEARCH then UNPACK, and the
round trip through the string (43_codec.md R161, R164, R166, R168). -/

namespace Sys2Proof.Machine

/-! ### Outcomes -/

@[simp] theorem completed_err (s : State) (op : Byte) (r : Option Raise) :
    (completed s op r).err = r.map Raise.kind := rfl

@[simp] theorem failed_err (s : State) (i : Instr) (r : Raise) : (failed s i r).err = some r.kind := rfl

/-- A command zeroes its outputs when its body fails. -/
theorem oneShot_of_body_error {s : State} (hs : Ready s) {p : Platform} {i : Instr} {body : Except Raise Writes}
    (hpend : (launchOf p i s).pend = .ofBody body) {r : Raise} (hr : body = .error r) :
    oneShot p i s = failed s i r := by
  subst hr
  exact oneShot_fail hs.idle (.inr hs.sha) hpend

/-- An accepted command whose answers come reports no error exactly when its body succeeds. -/
theorem engineStep_accept_err_eq_none_iff {s : State} {l : Launch} (hs : l.shaReq = none ∨ s.shaUp = true)
    (p : Platform) (i : Instr) {body : Except Raise Writes} (hpend : l.pend = .ofBody body) :
    (engineStep p (accept (acceptBase i s) (encode i) l)).err = none ↔ succeeded body = true := by
  cases body with
  | ok w => simp [engineStep_accept_ok hs p i w hpend, succeeded]
  | error r => simp [engineStep_accept_fail hs p i r hpend, succeeded]

/-- Settles O31: CHECK and DECODE make the same request, and CHECK's outcome writes whether DECODE's body succeeds. -/
theorem checkResult : Obligations.CheckResult := by
  intro s hs
  refine ⟨_, _, (exec_eq_execOn .check s).trans (execOn_of_idle hs _ _),
    (exec_eq_execOn .decode s).trans (execOn_of_idle hs _ _), rfl,
    fun hsha => ⟨succeeded (decodeBody Config.platform s), ?_, ?_⟩⟩
  · exact engineStep_accept_ok hsha Config.platform .check _ rfl
  · exact (engineStep_accept_err_eq_none_iff (l := launchOf Config.platform .decode s) hsha Config.platform .decode
      rfl).symm

/-! ### Two commands in sequence -/

/-- The writes `u` and those of the index list `xs`: what ENCODE and DECODE write, with `u` the writes of LOOKUP or
UNPACK (43_codec.md R160, R163). -/
def Writes.withIndices (xs : List Nat) (u : Writes) : Writes :=
  { u with idx := (indexWrites xs).idx, wordCnt := (indexWrites xs).wordCnt }

theorem ready_of_commit_completed {s : State} (hs : Ready s) (op : Byte) (w : Writes) :
    Ready (commit (completed s op none) w) := ⟨rfl, hs.sha⟩

/-- A command `i` whose body is that of command `j` in the state `a`, with the indices `xs` added, fails as `j` does from
`a`, and succeeds when `j` does from `a`. -/
theorem oneShot_of_body_eq_map_withIndices {s a : State} (hs : Ready s) (ha : Ready a) {p : Platform} {i j : Instr}
    {whole second : Except Raise Writes} {xs : List Nat} (hi : (launchOf p i s).pend = .ofBody whole)
    (hj : (launchOf p j a).pend = .ofBody second) (hbody : whole = second.map (Writes.withIndices xs)) :
    (∃ r, oneShot p j a = failed a j r ∧ oneShot p i s = failed s i r) ∨
      ∃ u, second = .ok u ∧ oneShot p j a = commit (completed a (opcode j) none) u ∧
        oneShot p i s = commit (completed s (opcode i) none) (u.withIndices xs) := by
  cases second with
  | error r => exact .inl ⟨r, oneShot_of_body_error ha hj rfl, oneShot_of_body_error hs hi hbody⟩
  | ok u => exact .inr ⟨u, rfl, oneShot_of_body_ok ha hj rfl, oneShot_of_body_ok hs hi hbody⟩

/-! ### ENCODE is PACK, then LOOKUP -/

theorem checkWordlist_congr (p : Platform) {s t : State} (h : t.lang = s.lang) :
    checkWordlist p t = checkWordlist p s := by
  rw [checkWordlist, checkWordlist, lid, h, lid]

theorem checkWordlist_of_width {p : Platform} {s : State} (h : (p.romBits (resolveLid s.lang)).toNat = 11) :
    checkWordlist p s = .ok (resolveLid s.lang) := if_pos h

theorem checkWordlist_of_wrong_width {p : Platform} {s : State} (h : (p.romBits (resolveLid s.lang)).toNat ≠ 11) :
    checkWordlist p s = .error ⟨.invalidWordlist, zext32 (p.romBits (resolveLid s.lang))⟩ := if_neg h

theorem packResult_eq_ok_iff (p : Platform) (s : State) (xs : List Nat) :
    packResult p s = .ok xs ↔ s.entLen.toNat ∈ [16, 20, 24, 28, 32] ∧ xs = packIndices p (entropy s) := by
  rw [← validLen_iff, packResult]
  split_ifs with h <;> simp [h, eq_comm]

/-- Packed indices read back pass LOOKUP's tests (40_wordlist_rom.md R116). -/
theorem lookupIndices_of_indices {t : State} {xs : List Nat} (hcnt : t.wordCnt.toNat ≤ 24) (hx : indices t = xs)
    (hbound : ∀ x ∈ xs, x < 2048) : lookupIndices t = .ok xs := by
  rw [lookupIndices, if_neg (by simpa using hcnt), hx, (firstBadIndex_eq_none_iff xs).2 hbound]

theorem lookupBody_of_indices (p : Platform) {t : State} {xs : List Nat} (hx : lookupIndices t = .ok xs) :
    lookupBody p t = (checkWordlist p t).map fun l => mnemonicWrites (wordString p l xs) := by
  rw [lookupBody, hx]
  cases checkWordlist p t <;> rfl

theorem encodeBody_of_packResult_ok (p : Platform) {s : State} {xs : List Nat} (hx : packResult p s = .ok xs) :
    encodeBody p s = (checkWordlist p s).map fun l => (mnemonicWrites (wordString p l xs)).withIndices xs := by
  rw [encodeBody, hx]
  cases checkWordlist p s <;> rfl

theorem encodeBody_of_wrong_width {p : Platform} {s : State} (h : (p.romBits (resolveLid s.lang)).toNat ≠ 11) :
    encodeBody p s = .error ⟨.invalidWordlist, zext32 (p.romBits (resolveLid s.lang))⟩ := by
  rw [encodeBody, checkWordlist_of_wrong_width h]

theorem packBody_of_packResult_ok {p : Platform} {s : State} {xs : List Nat} (hx : packResult p s = .ok xs) :
    packBody p s = .ok (indexWrites xs) := by
  rw [packBody, hx]

theorem packBody_of_packResult_error {p : Platform} {s : State} {r : Raise} (hr : packResult p s = .error r) :
    packBody p s = .error r := by
  rw [packBody, hr]

theorem packBody_of_invalid_length (p : Platform) {s : State} (h : s.entLen.toNat ∉ [16, 20, 24, 28, 32]) :
    packBody p s = .error ⟨.invalidEntropyLength, s.entLen⟩ := by
  rw [packBody, packResult, if_neg (by rwa [validLen_iff])]

/-- A failing PACK makes ENCODE fail, with the wordlist's error if there is one (43_codec.md R161). -/
theorem encodeBody_of_packResult_error (p : Platform) {s : State} {r : Raise} (hr : packResult p s = .error r) :
    ∃ r', encodeBody p s = .error r' := by
  rw [encodeBody, hr]
  cases checkWordlist p s <;> exact ⟨_, rfl⟩

/-- After PACK, LOOKUP answers the part of ENCODE's outcome that PACK has not written (43_codec.md R161). -/
theorem encodeBody_eq_map_lookupBody (p : Platform) {s t : State} {xs : List Nat} (hx : packResult p s = .ok xs)
    (hlang : t.lang = s.lang) (hcnt : t.wordCnt = BitVec.ofNat 32 xs.length) (hidx : t.idx = idxVec xs) :
    encodeBody p s = (lookupBody p t).map (Writes.withIndices xs) := by
  obtain ⟨hlen, rfl⟩ := (packResult_eq_ok_iff p s xs).1 hx
  have hn : (packIndices p (entropy s)).length ∈ [12, 15, 18, 21, 24] := by
    rw [length_packIndices, length_entropy hlen]
    exact numWords_mem hlen
  have hle := validCnt_le hn
  have hread : lookupIndices t = .ok (packIndices p (entropy s)) :=
    lookupIndices_of_indices (by rwa [hcnt, toNat_ofNat_of_le (by omega)])
      (indices_of_indexWrites hn (fun _ => packIndices_lt) hcnt hidx) fun _ => packIndices_lt
  rw [encodeBody_of_packResult_ok p hx, lookupBody_of_indices p hread, checkWordlist_congr p hlang]
  cases checkWordlist p s <;> rfl

/-- LOOKUP writes a mnemonic string and nothing else (40_wordlist_rom.md R116). -/
theorem lookupBody_ok_mnemonicWrites {p : Platform} {s : State} {u : Writes} (h : lookupBody p s = .ok u) :
    ∃ str, u = mnemonicWrites str := by
  rw [lookupBody] at h
  split at h
  · cases h
  · split at h <;> cases h
    exact ⟨_, rfl⟩

/-- Settles O40: ENCODE's body is LOOKUP's after PACK, with PACK's indices. -/
theorem encodeIsPackThenLookup : Obligations.EncodeIsPackThenLookup := by
  intro p s hs a b c
  have hwidth (h : (p.romBits (resolveLid s.lang)).toNat ≠ 11) : c.err = some .invalidWordlist :=
    congrArg State.err (oneShot_of_body_error hs (i := .encode) rfl (encodeBody_of_wrong_width h))
  have hlen (h : s.entLen.toNat ∉ [16, 20, 24, 28, 32]) : a.err = some .invalidEntropyLength :=
    congrArg State.err (oneShot_of_body_error hs (p := p) (i := .pack) rfl (packBody_of_invalid_length p h))
  cases hx : packResult p s with
  | error r =>
    obtain ⟨r', hr'⟩ := encodeBody_of_packResult_error p hx
    have ha : a = failed s .pack r := oneShot_of_body_error hs rfl (packBody_of_packResult_error hx)
    have hc : c = failed s .encode r' := oneShot_of_body_error hs rfl hr'
    exact ⟨by simp [ha, hc], by simp [hc], fun _ => by rw [hc]; exact ⟨rfl, rfl, rfl, rfl⟩, hwidth, hlen⟩
  | ok xs =>
    have ha : a = commit (completed s 0x05 none) (indexWrites xs) :=
      oneShot_of_body_ok hs rfl (packBody_of_packResult_ok hx)
    have hready : Ready a := ha ▸ ready_of_commit_completed hs _ _
    have hbody : encodeBody p s = (lookupBody p a).map (Writes.withIndices xs) :=
      encodeBody_eq_map_lookupBody p hx (by rw [ha]; rfl) (by rw [ha]; rfl) (by rw [ha]; rfl)
    have hcases : (∃ r, b = failed a .lookup r ∧ c = failed s .encode r) ∨
        ∃ u, lookupBody p a = .ok u ∧ b = commit (completed a 0x07 none) u ∧
          c = commit (completed s 0x01 none) (u.withIndices xs) :=
      oneShot_of_body_eq_map_withIndices hs hready rfl rfl hbody
    rcases hcases with ⟨r, hb, hc⟩ | ⟨u, hu, hb, hc⟩
    · exact ⟨by simp [hb, hc], by simp [hc], fun _ => by rw [hc]; exact ⟨rfl, rfl, rfl, rfl⟩, hwidth, hlen⟩
    · obtain ⟨str, rfl⟩ := lookupBody_ok_mnemonicWrites hu
      exact ⟨by simp [ha, hb, hc], fun _ => by rw [hb, hc, ha]; exact ⟨rfl, rfl, rfl, rfl⟩, by simp [hc], hwidth, hlen⟩

/-! ### DECODE is SEARCH, then UNPACK -/

theorem length_tokens_mnemonic_le (s : State) : (tokens (mnemonic s)).length ≤ 512 := by
  have h := two_mul_length_tokensFrom_le (mnemonic s) []
  have hlen : (mnemonic s).length ≤ 1024 := by simp [mnemonic]
  rw [if_pos rfl] at h
  rw [tokens]
  omega

/-- What SEARCH found: the indices of the tokens of MNEM (40_wordlist_rom.md R118). -/
theorem searchIndices_eq_ok_iff (p : Platform) (s : State) (xs : List Nat) :
    searchIndices p s = .ok xs ↔ (p.romBits (resolveLid s.lang)).toNat = 11 ∧ s.mnemLen.toNat ≤ 1024 ∧
      (tokens (mnemonic s)).map (findWord p (resolveLid s.lang)) = xs.map some := by
  by_cases hwidth : (p.romBits (resolveLid s.lang)).toNat = 11
  · rw [searchIndices, checkWordlist_of_width hwidth, ← findTokens_eq_ok_iff p _ 0]
    split_ifs with hlen
    · simp [Nat.not_le.2 hlen]
    · simp [hwidth, Nat.not_lt.1 hlen]
  · simp [searchIndices, checkWordlist_of_wrong_width hwidth, hwidth]

theorem length_of_searchIndices {p : Platform} {s : State} {xs : List Nat} (h : searchIndices p s = .ok xs) :
    xs.length ≤ 512 := by
  obtain ⟨-, -, hmap⟩ := (searchIndices_eq_ok_iff p s xs).1 h
  have hlen := congrArg List.length hmap
  rw [List.length_map, List.length_map] at hlen
  exact hlen ▸ length_tokens_mnemonic_le s

theorem lt_of_mem_searchIndices {p : Platform} {s : State} {xs : List Nat} (h : searchIndices p s = .ok xs) {x : Nat}
    (hx : x ∈ xs) : x < 2048 := by
  obtain ⟨-, -, hmap⟩ := (searchIndices_eq_ok_iff p s xs).1 h
  have hfound : some x ∈ (tokens (mnemonic s)).map (findWord p (resolveLid s.lang)) :=
    hmap ▸ List.mem_map_of_mem hx
  obtain ⟨t, -, ht⟩ := List.mem_map.1 hfound
  exact (findWord_some ht).1

/-- Of what SEARCH found DECODE tests the count (43_codec.md R163). -/
theorem decodeIndices_of_searched {p : Platform} {s : State} {xs : List Nat} (hx : searchIndices p s = .ok xs) :
    decodeIndices p s = if validCnt xs.length then .ok xs
      else .error ⟨.invalidMnemonicLength, BitVec.ofNat 32 xs.length⟩ := by
  rw [decodeIndices, hx]

/-- UNPACK of the indices SEARCH wrote makes DECODE's test of the count (43_codec.md R164). -/
theorem unpackIndices_of_searched {p : Platform} {s t : State} {xs : List Nat} (hx : searchIndices p s = .ok xs)
    (hcnt : t.wordCnt = BitVec.ofNat 32 xs.length) (hidx : t.idx = idxVec xs) :
    unpackIndices t = decodeIndices p s := by
  have hlen := length_of_searchIndices hx
  have hbound : ∀ x ∈ xs, x < 2048 := fun _ => lt_of_mem_searchIndices hx
  have hnum : t.wordCnt.toNat = xs.length := by rw [hcnt, toNat_ofNat_of_le (by omega)]
  rw [unpackIndices, decodeIndices_of_searched hx, hnum]
  split_ifs with hvalid
  · rw [indices_of_indexWrites ((validCnt_iff _).1 hvalid) hbound hcnt hidx, (firstBadIndex_eq_none_iff xs).2 hbound]
  · rw [hcnt]

/-- After SEARCH, UNPACK answers the part of DECODE's outcome that SEARCH has not written (43_codec.md R164). -/
theorem decodeBody_eq_map_unpackBody {p : Platform} {s t : State} {xs : List Nat} (hx : searchIndices p s = .ok xs)
    (hcnt : t.wordCnt = BitVec.ofNat 32 xs.length) (hidx : t.idx = idxVec xs) :
    decodeBody p s = (unpackBody p t).map (Writes.withIndices xs) := by
  rw [decodeBody, unpackBody, unpackIndices_of_searched hx hcnt hidx, decodeIndices_of_searched hx]
  split_ifs
  · dsimp only
    cases verified p xs <;> rfl
  · rfl

theorem decodeBody_of_searchIndices_error {p : Platform} {s : State} {r : Raise} (hr : searchIndices p s = .error r) :
    decodeBody p s = .error r := by
  rw [decodeBody, decodeIndices, hr]

theorem searchBody_of_searchIndices_ok {p : Platform} {s : State} {xs : List Nat} (hx : searchIndices p s = .ok xs) :
    searchBody p s = .ok (indexWrites xs) := by
  rw [searchBody, hx]

theorem searchBody_of_searchIndices_error {p : Platform} {s : State} {r : Raise} (hr : searchIndices p s = .error r) :
    searchBody p s = .error r := by
  rw [searchBody, hr]

/-- Settles O41: DECODE's body is UNPACK's after SEARCH, with SEARCH's indices. -/
theorem decodeIsSearchThenUnpack : Obligations.DecodeIsSearchThenUnpack := by
  intro p s hs a b c
  cases hx : searchIndices p s with
  | error r =>
    have ha : a = failed s .search r := oneShot_of_body_error hs rfl (searchBody_of_searchIndices_error hx)
    have hc : c = failed s .decode r := oneShot_of_body_error hs rfl (decodeBody_of_searchIndices_error hx)
    exact ⟨by simp [ha, hc], by simp [hc], fun _ => by rw [ha, hc]; exact ⟨rfl, rfl⟩, by simp [ha],
      fun _ => by rw [hc]; exact ⟨rfl, rfl, rfl, rfl⟩⟩
  | ok xs =>
    have ha : a = commit (completed s 0x08 none) (indexWrites xs) :=
      oneShot_of_body_ok hs rfl (searchBody_of_searchIndices_ok hx)
    have hready : Ready a := ha ▸ ready_of_commit_completed hs _ _
    have hbody : decodeBody p s = (unpackBody p a).map (Writes.withIndices xs) :=
      decodeBody_eq_map_unpackBody hx (by rw [ha]; rfl) (by rw [ha]; rfl)
    have hcases : (∃ r, b = failed a .unpack r ∧ c = failed s .decode r) ∨
        ∃ u, unpackBody p a = .ok u ∧ b = commit (completed a 0x06 none) u ∧
          c = commit (completed s 0x02 none) (u.withIndices xs) :=
      oneShot_of_body_eq_map_withIndices hs hready rfl rfl hbody
    rcases hcases with ⟨r, hb, hc⟩ | ⟨u, hu, hb, hc⟩
    · exact ⟨by simp [hb, hc], by simp [hc], by simp [ha], fun _ _ => by rw [hb, hc]; exact ⟨rfl, rfl, rfl, rfl⟩,
        fun _ => by rw [hc]; exact ⟨rfl, rfl, rfl, rfl⟩⟩
    · obtain ⟨-, -, -, rfl⟩ := (unpackBody_eq_ok_iff p a u).1 hu
      exact ⟨by simp [ha, hb, hc], fun _ => by rw [hb, hc, ha]; exact ⟨rfl, rfl, rfl, rfl⟩, by simp [ha], by simp [hb],
        by simp [hc]⟩

/-! ### The string of a word list and its tokens -/

theorem tokensFrom_append_of_nonWs {w : Bytes} (hw : ∀ b ∈ w, isWs b = false) (cur x : Bytes) :
    tokensFrom cur (w ++ x) = tokensFrom (cur ++ w) x := by
  induction w generalizing cur with
  | nil => simp
  | cons b w ih =>
    rw [List.cons_append, tokensFrom_cons_of_nonWs cur (hw b (by simp)), ih fun c hc => hw c (by simp [hc]),
      List.append_assoc, List.singleton_append]

/-- Words without a byte of WS are the tokens of their joined string (30_encoding.md R97, 40_wordlist_rom.md R117). -/
theorem tokens_joinWords {ws : List Bytes} (hne : ∀ w ∈ ws, w ≠ []) (hws : ∀ w ∈ ws, ∀ b ∈ w, isWs b = false) :
    tokens (joinWords ws) = ws := by
  have hsep : isWs Config.sep = true := by decide
  induction ws with
  | nil => rfl
  | cons w rest ih =>
    have hrest := ih (fun v hv => hne v (by simp [hv])) fun v hv => hws v (by simp [hv])
    have hw := hne w (by simp)
    have hrun := tokensFrom_append_of_nonWs (hws w (by simp)) []
    cases rest with
    | nil =>
      have hlast := hrun []
      rwa [List.append_nil, List.nil_append, tokensFrom_nil_of_ne_nil hw] at hlast
    | cons v rest =>
      rw [joinWords, tokens, hrun, List.nil_append, tokensFrom_cons_of_ws hw hsep]
      · exact congrArg (w :: ·) hrest
      · exact List.cons_ne_nil v rest

/-- Below 2048 a word is a ROM entry: not empty and without a byte of WS (20_memory.md R74). -/
theorem word_ok (p : Platform) (l : LangId) {i : Nat} (h : i < 2048) :
    word p l i ≠ [] ∧ ∀ b ∈ word p l i, isWs b = false := by
  obtain ⟨hpos, -, hws⟩ := romWord_ok (p.rom l ⟨i, h⟩)
  rw [word_of_lt p l i h]
  exact ⟨List.ne_nil_of_length_pos hpos, hws⟩

theorem tokens_wordString (p : Platform) (l : LangId) {xs : List Nat} (h : ∀ x ∈ xs, x < 2048) :
    tokens (wordString p l xs) = xs.map (word p l) := by
  refine tokens_joinWords ?_ ?_ <;> rw [List.forall_mem_map]
  · exact fun x hx => (word_ok p l (h x hx)).1
  · exact fun x hx => (word_ok p l (h x hx)).2

/-- With pairwise different words the search finds the index a word came from (40_wordlist_rom.md R119). -/
theorem findWord_word {p : Platform} {l : LangId} (hu : RomUnique p l) {i : Nat} (h : i < 2048) :
    findWord p l (word p l i) = some i := by
  refine (findWord_eq_some_iff p l _ i).2 ⟨h, rfl, fun j hj heq => ?_⟩
  rw [word_of_lt p l i h, word_of_lt p l j (hj.trans h)] at heq
  exact hj.ne (congrArg Fin.val (hu _ _ heq))

/-- The string of a list of at most 24 indices fits in MNEM (40_wordlist_rom.md R116). -/
theorem length_wordString_le (p : Platform) (l : LangId) {xs : List Nat} (h : xs.length ≤ 24) :
    (wordString p l xs).length ≤ 1024 := by
  have hlen := joinWords_length_le (xs.map (word p l)) (by simp [word_length_le])
  rw [List.length_map] at hlen
  exact hlen.trans (by omega)

/-! ### ENCODE, then DECODE -/

/-- The string a command committed is read back. -/
theorem mnemonic_of_mnemonicWrites {s : State} {str : Bytes} (h : str.length ≤ 1024)
    (hlen : s.mnemLen = BitVec.ofNat 32 str.length) (hmnem : s.mnem = bytesVec 1024 str) : mnemonic s = str := by
  rw [mnemonic, hlen, hmnem, toNat_ofNat_of_le (by omega)]
  exact take_padVec 1024 0 str h

/-- SEARCH of a string ENCODE or LOOKUP wrote finds its indices (43_codec.md R168). -/
theorem searchIndices_of_wordString {p : Platform} {s : State} {xs : List Nat}
    (hwidth : (p.romBits (resolveLid s.lang)).toNat = 11) (hu : RomUnique p (resolveLid s.lang))
    (hn : xs.length ≤ 24) (hbound : ∀ x ∈ xs, x < 2048)
    (hlen : s.mnemLen = BitVec.ofNat 32 (wordString p (resolveLid s.lang) xs).length)
    (hmnem : s.mnem = bytesVec 1024 (wordString p (resolveLid s.lang) xs)) : searchIndices p s = .ok xs := by
  have hle := length_wordString_le p (resolveLid s.lang) hn
  rw [searchIndices_eq_ok_iff, mnemonic_of_mnemonicWrites hle hlen hmnem, tokens_wordString p _ hbound,
    List.map_map, hlen, toNat_ofNat_of_le (by omega)]
  exact ⟨hwidth, hle, List.map_congr_left fun x hx => findWord_word hu (hbound x hx)⟩

/-- What ENCODE answers on a valid length (43_codec.md R160). -/
theorem encodeBody_of_valid {p : Platform} {s : State} (hwidth : (p.romBits (resolveLid s.lang)).toNat = 11)
    (hlen : s.entLen.toNat ∈ [16, 20, 24, 28, 32]) :
    encodeBody p s = .ok ((mnemonicWrites (wordString p (resolveLid s.lang)
      (packIndices p (entropy s)))).withIndices (packIndices p (entropy s))) := by
  rw [encodeBody_of_packResult_ok p ((packResult_eq_ok_iff p s _).2 ⟨hlen, rfl⟩), checkWordlist_of_width hwidth]
  rfl

/-- DECODE of a string whose tokens are packed indices recovers the entropy (43_codec.md R168). -/
theorem decodeBody_of_packed {p : Platform} {s : State} {e : Bytes} (he : e.length ∈ [16, 20, 24, 28, 32])
    (hx : searchIndices p s = .ok (packIndices p e)) :
    decodeBody p s = .ok ((entropyWrites e).withIndices (packIndices p e)) := by
  let t := commit s (indexWrites (packIndices p e))
  rw [decodeBody_eq_map_unpackBody (t := t) hx rfl rfl, unpackBody_of_packed p he rfl rfl]
  rfl

/-- Settles O42: the tokens of ENCODE's string are its words, each word has one index, and UNPACK undoes PACK. -/
theorem stringRoundTrip : Obligations.StringRoundTrip := by
  intro p s s' hs hs' hwidth hu hlen hlang hmnem hmnemLen
  have he := length_entropy hlen
  have hvalid : (entropy s).length ∈ [16, 20, 24, 28, 32] := he ▸ hlen
  have hn : (packIndices p (entropy s)).length ≤ 24 := by
    rw [length_packIndices]
    exact validCnt_le (numWords_mem hvalid)
  have henc := oneShot_of_body_ok hs (i := .encode) rfl (encodeBody_of_valid hwidth hlen)
  rw [henc, ← hlang] at hmnem hmnemLen
  have hsearch : searchIndices p s' = .ok (packIndices p (entropy s)) :=
    searchIndices_of_wordString (hlang ▸ hwidth) (hlang ▸ hu) hn (fun _ => packIndices_lt) hmnemLen hmnem
  rw [henc, oneShot_of_body_ok hs' (i := .decode) rfl (decodeBody_of_packed hvalid hsearch)]
  exact ⟨rfl, rfl, ofNat_of_eq_toNat he, entropy_of_entropyWrites hvalid rfl rfl⟩

end Sys2Proof.Machine
end

section
/-! PROOFS. DERIVE from accept to complete: the chain of HMAC512 calls, the seed it ends with, and what that seed
depends on (44_seed.md R183, R184, R186). -/

namespace Sys2Proof.Machine

/-! ### The accept step -/

/-- The length tests let a DERIVE run exactly when both lengths are in range (44_seed.md R183). -/
theorem deriveError_eq_none_iff (s : State) :
    deriveError s = none ↔ s.mnemLen.toNat ≤ 1024 ∧ s.passLen.toNat ≤ 256 := by
  simp only [deriveError, Config.mnemCap, Config.passCap]
  split_ifs <;> simp <;> omega

theorem deriveLaunch_of_runs {s : State} (h : deriveError s = none) :
    deriveLaunch s = { pend := .derive, work := { salt := firstMessage s } } := by
  simp [deriveLaunch, h]

/-! ### The chain -/

/-- U after `k` calls of a DERIVE: zero, then the last answer (44_seed.md R184). -/
def lastAnswer (p : Platform) (s : State) : Nat → Vector Byte 64
  | 0 => zeroSeed
  | k + 1 => chainU p (password s) (firstMessage s) k

/-- A DERIVE accepted in `s`, after `k` calls (44_seed.md R184). -/
def midDerive (p : Platform) (s : State) (k : Nat) : State :=
  { accept s (encode .derive) (deriveLaunch s) with
    u := lastAnswer p s k
    t := chainT p (password s) (firstMessage s) k
    iter := BitVec.ofNat 12 k }

/-- A DERIVE with its lengths in range starts with no call made. -/
theorem execOn_derive_of_idle {s : State} (hidle : s.phase = .idle) (hrun : deriveError s = none) (p : Platform) :
    execOn p .derive s = .next (midDerive p s 0) := by
  have hbase : acceptBase .derive s = { s with u := zeroSeed, t := zeroSeed } := by
    simp [acceptBase, clearChain_of_idle hidle, hrun]
  rw [execOn_of_idle hidle, hbase]
  rfl

theorem midDerive_iter_toNat (p : Platform) (s : State) {k : Nat} (hk : k ≤ 2048) :
    (midDerive p s k).iter.toNat = k :=
  Nat.mod_eq_of_lt (by omega)

theorem midDerive_pend {s : State} (hrun : deriveError s = none) (p : Platform) (k : Nat) :
    (midDerive p s k).pend = .derive := by
  simp [midDerive, deriveLaunch_of_runs hrun]

theorem midDerive_shaReq {s : State} (hrun : deriveError s = none) (p : Platform) (k : Nat) :
    (midDerive p s k).shaReq = none := by
  simp [midDerive, deriveLaunch_of_runs hrun]

/-- Call `k + 1` asks for the next answer of the chain. -/
theorem hmac512_hmacRequest_midDerive (p : Platform) (s : State) {k : Nat} (hk : k < 2048) :
    p.hmac512 (hmacRequest (midDerive p s k)).1 (hmacRequest (midDerive p s k)).2 =
      chainU p (password s) (firstMessage s) k := by
  have hiter := midDerive_iter_toNat p s hk.le
  cases k with
  | zero => rfl
  | succ k =>
    have hne : (midDerive p s (k + 1)).iter ≠ 0 := fun h => by simp [h] at hiter
    rw [hmacRequest, if_neg hne]
    rfl

theorem iterate_midDerive (p : Platform) (s : State) {k : Nat} (hk : k < 2048) :
    iterate p (midDerive p s k) = midDerive p s (k + 1) := by
  simp only [iterate, hmac512_hmacRequest_midDerive p s hk]
  simp [midDerive, lastAnswer, chainT, BitVec.ofNat_add]

/-- The complete step after the last call puts T into SEED and leaves nothing else but the status and ITER changed. -/
theorem completeOk_midDerive (p : Platform) (s : State) :
    completeOk (midDerive p s 2048) { seed := some (midDerive p s 2048).t } =
      { completed s (opcode .derive) none with seed := derivedSeed p s, iter := 2048 } := by
  simp [completeOk, finish, clearHidden, commit, midDerive, accept, completed, derivedSeed, Config.iterTotal]

/-- The `n` calls still to make, one a turn, and then the complete step. -/
theorem engineSteps_midDerive {s : State} (hrun : deriveError s = none) (hup : s.hmacUp = true) (p : Platform)
    {k n : Nat} (h : k + n = 2048) :
    engineSteps p (n + 1) (midDerive p s k) =
      { completed s (opcode .derive) none with seed := derivedSeed p s, iter := 2048 } := by
  induction n generalizing k with
  | zero =>
    obtain rfl : k = 2048 := h
    have hanswers : answersIn (midDerive p s 2048) = true := by simp [answersIn, midDerive_shaReq hrun]
    rw [engineSteps, engineStep_of_derived rfl hanswers (midDerive_pend hrun p _) (midDerive_iter_toNat p s le_rfl).ge,
      completeOk_midDerive, engineSteps]
  | succ n ih =>
    have hk : k < 2048 := by omega
    have hen : iterateEnabled (midDerive p s k) = true :=
      (iterateEnabled_iff _).2 ⟨rfl, midDerive_pend hrun p k, by rwa [midDerive_iter_toNat p s hk.le], hup⟩
    rw [engineSteps, engineStep_of_iterate hen, iterate_midDerive p s hk]
    exact ih (by omega)

/-- A DERIVE with its lengths in range, from accept to complete: 2048 calls and the complete step (44_seed.md R183). -/
theorem engineSteps_derive {s : State} (hrun : deriveError s = none) (hup : s.hmacUp = true) (p : Platform) :
    engineSteps p 2049 (midDerive p s 0) =
      { completed s (opcode .derive) none with seed := derivedSeed p s, iter := 2048 } :=
  engineSteps_midDerive hrun hup p (Nat.zero_add 2048)

/-! ### What the seed depends on -/

section
variable {p p' : Platform} (hhmac : p.hmac512 = p'.hmac512)
include hhmac

theorem chainU_congr (key msg : Bytes) (i : Nat) : chainU p key msg i = chainU p' key msg i := by
  induction i with
  | zero => rw [chainU, chainU, hhmac]
  | succ i ih => rw [chainU, chainU, hhmac, ih]

theorem chainT_congr (key msg : Bytes) (k : Nat) : chainT p key msg k = chainT p' key msg k := by
  induction k with
  | zero => rfl
  | succ k ih => rw [chainT, chainT, ih, chainU_congr hhmac]

/-- The seed depends on the mnemonic bytes, the passphrase bytes and HMAC512 alone (44_seed.md R186). -/
theorem derivedSeed_congr {s s' : State} (hmnem : mnemonic s = mnemonic s') (hpass : passphrase s = passphrase s') :
    derivedSeed p s = derivedSeed p' s' := by
  have hkey : password s = password s' := hmnem
  have hmsg : firstMessage s = firstMessage s' := by rw [firstMessage, firstMessage, salt, salt, hpass]
  rw [derivedSeed, derivedSeed, hkey, hmsg, chainT_congr hhmac]

end

/-- Settles O44: both derivations end with `derivedSeed`, which depends on the shared inputs and HMAC512 alone. -/
theorem deriveIsDeterministic : Obligations.DeriveIsDeterministic := by
  intro p p' s s' hhmac hidle hidle' hup hup' hmnemLen hpassLen hsame
  obtain ⟨hmnemLen', hmnem, hpassLen', hpass⟩ := hsame
  have hrun : deriveError s = none := (deriveError_eq_none_iff s).2 ⟨hmnemLen, hpassLen⟩
  have hrun' : deriveError s' = none := (deriveError_eq_none_iff s').2 ⟨hmnemLen' ▸ hmnemLen, hpassLen' ▸ hpassLen⟩
  refine ⟨_, _, execOn_derive_of_idle hidle hrun p, execOn_derive_of_idle hidle' hrun' p', ?_⟩
  rw [engineSteps_derive hrun hup p, engineSteps_derive hrun' hup' p']
  exact ⟨derivedSeed_congr hhmac hmnem hpass, rfl, rfl⟩

end Sys2Proof.Machine
end

section
/-! PROOFS. A step of the machine: what each event does, and what a step can do at all (20_memory.md R61, R71,
10_state.md R23, 70_reset_and_hazards.md R240). -/

namespace Sys2Proof.Machine

/-! ### One event -/

theorem stepOn_of_cons {s : State} {e : Event} {rest : List Event} (h : s.inputs = e :: rest) (p : Platform) :
    stepOn p s = stepEvent (execOn p) p { s with inputs := rest } e := by
  simp only [stepOn, stepWith, h]

/-- The accesses the bus can express (20_memory.md R61, R62). -/
theorem access_wf_iff (a : Access) : a.wf = true ↔ a.bytes = 4 ∧ a.addr % 4 = 0 ∧ a.addr < 2048 := by
  simp [Access.wf, Access.widthOk, Access.alignOk, Access.rangeOk, and_assoc]

theorem stepEvent_read {p : Platform} {ex : Instr → State → Res} (s : State) {off : Nat} (hword : off % 4 = 0)
    (hrange : off < 2048) : stepEvent ex p s (.read ⟨off, 4⟩) = .next (hostRead p s off) :=
  if_pos ((access_wf_iff _).2 ⟨rfl, hword, hrange⟩)

theorem stepEvent_write {p : Platform} {ex : Instr → State → Res} (s : State) {off : Nat} (hword : off % 4 = 0)
    (hrange : off < 2048) (v : Word) :
    stepEvent ex p s (.write ⟨off, 4⟩ v) = hostWrite ex execIllegal s off v :=
  if_pos ((access_wf_iff _).2 ⟨rfl, hword, hrange⟩)

theorem hostWrite_of_ne_cmd {ex : Instr → State → Res} {ill : Word → State → Res} (s : State) {off : Nat}
    (h : off ≠ 0x004) (v : Word) : hostWrite ex ill s off v = .next (writeAt s off v) :=
  if_neg (mt (slotOf_eq_cmd off).1 h)

/-- The host's write of `v` to CMD, in a state whose event it is (10_state.md R23). -/
theorem stepOn_writeCmd {s : State} {v : Word} {rest : List Event} (h : s.inputs = .write ⟨0x004, 4⟩ v :: rest)
    (p : Platform) : stepOn p s = writeCmd (execOn p) execIllegal { s with inputs := rest } v := by
  rw [stepOn_of_cons h, stepEvent_write _ (by decide) (by decide)]
  rfl

theorem stepOn_command {s : State} {v : Word} {rest : List Event} (h : s.inputs = .write ⟨0x004, 4⟩ v :: rest)
    {i : Instr} (hv : decode v = .ok i) (p : Platform) : stepOn p s = execOn p i { s with inputs := rest } := by
  rw [stepOn_writeCmd h, writeCmd, hv]

theorem stepOn_illegal {s : State} {v : Word} {rest : List Event} (h : s.inputs = .write ⟨0x004, 4⟩ v :: rest)
    {e : DecodeError} (hv : decode v = .error e) (p : Platform) :
    stepOn p s = execIllegal v { s with inputs := rest } := by
  rw [stepOn_writeCmd h, writeCmd, hv]

theorem stepOn_reset {s : State} {rest : List Event} (h : s.inputs = .reset :: rest) (p : Platform) :
    stepOn p s = .next (resetBlock { s with inputs := rest }) := stepOn_of_cons h p

theorem stepOn_read {s : State} {off : Nat} {rest : List Event} (hword : off % 4 = 0) (hrange : off < 2048)
    (h : s.inputs = .read ⟨off, 4⟩ :: rest) (p : Platform) :
    stepOn p s = .next { s with inputs := rest, rdata := some (readAt p s off) } := by
  rw [stepOn_of_cons h, stepEvent_read _ hword hrange]
  rfl

/-- An access the bus cannot express is refused (20_memory.md R62). -/
theorem stepOn_refused {s : State} {a : Access} {v : Word} {rest : List Event} (ha : ¬ a.wf = true)
    (h : s.inputs = .read a :: rest ∨ s.inputs = .write a v :: rest) (p : Platform) :
    stepOn p s = .refused (.busAccess a) := by
  rcases h with h | h <;> rw [stepOn_of_cons h] <;> exact if_neg ha

/-- Settles O3: the fetch is the write to CMD, and a word written in front of the events is fetched next. -/
theorem stepRunsTheDecodedCommand : Obligations.StepRunsTheDecodedCommand := by
  refine ⟨fun s rest v i h hv => ?_, fun s rest v e h hv => ?_, fun s i hidle => ?_⟩
  · rw [step_eq_stepOn, stepOn_command h hv, exec_eq_execOn]
  · rw [step_eq_stepOn, stepOn_illegal h hv]
  · have hword : BitVec.ofNat 32 ((encode i).toNat % 2 ^ 32) = encode i := by
      rw [Nat.mod_eq_of_lt (encode i).isLt, BitVec.ofNat_toNat, BitVec.setWidth_eq]
    have hfetch : s.withFetchWord 32 (encode i).toNat =
        { s with inputs := .write ⟨0x004, 4⟩ (encode i) :: s.inputs } := by
      rw [State.withFetchWord, hword, busy_eq_false.2 hidle]
      rfl
    rw [step_eq_stepOn, stepOn_command (by rw [hfetch]) (decode_encode i), exec_eq_execOn, hfetch]

/-- Settles O4: each event by its own rule. -/
theorem stepTakesOneEvent : Obligations.StepTakesOneEvent := by
  intro p s rest
  refine ⟨fun h => ?_, fun h => stepOn_of_cons h p, fun h => stepOn_reset h p, fun _ _ h => stepOn_of_cons h p,
    fun off hword hrange h => stepOn_read hword hrange h p, fun off v hword hrange hcmd h => ?_,
    fun off n v hbad h => ?_⟩
  · simp only [stepOn, stepWith, h]
  · rw [stepOn_of_cons h, stepEvent_write _ hword hrange, hostWrite_of_ne_cmd _ hcmd]
  · refine stepOn_refused ?_ h p
    rw [access_wf_iff]
    rintro ⟨hn, hword, hrange⟩
    dsimp only at hn hword hrange
    omega

/-- While BUSY neither a command's word nor another reaches the accept step (10_state.md R23). -/
theorem writeCmd_of_busy {s : State} (h : s.phase = .busy) (p : Platform) (v : Word) :
    writeCmd (execOn p) execIllegal s v = .next (dropWrite s) := by
  rcases writeCmd_cases p s v with ⟨i, -, e⟩ | ⟨_, -, e⟩ <;> rw [e]
  · exact execOn_of_busy h p i
  · rw [issue_of_busy h]

/-- Settles O8: the write to CMD is dropped, whatever the word. -/
theorem commandWhileBusyIsDropped : Obligations.CommandWhileBusyIsDropped := by
  intro s rest v hbusy h
  rw [step_eq_stepOn, stepOn_writeCmd h]
  exact writeCmd_of_busy (s := { s with inputs := rest }) hbusy _ v

/-- What the host reads does not depend on the value of its last read (20_memory.md R69). -/
theorem readAt_with_rdata (p : Platform) (s : State) (r : Option Word) (l : List Event) (off : Nat) :
    readAt p { s with inputs := l, rdata := r } off = readAt p s off := by
  unfold readAt
  cases slotOf off <;> rfl

/-- Settles O52: a read puts a value on the bus and takes its event. -/
theorem readsHaveNoSideEffect : Obligations.ReadsHaveNoSideEffect := by
  intro p s s' rest off off' hword hrange h hstep
  rw [stepOn_read hword hrange h] at hstep
  cases hstep
  exact ⟨rfl, readAt_with_rdata p s _ _ off', rfl⟩

/-! ### Reset -/

theorem hiddenZero_reset : HiddenZero State.reset := ⟨rfl, rfl, rfl, rfl, rfl, rfl⟩

/-- Settles O5: the values of the reset state, as the host reads them and as they stand. -/
theorem resetValues : Obligations.ResetValues := by
  refine ⟨fun p => ?_, by decide, ?_⟩
  · exact ⟨rfl, rfl, by rfl, by rfl, rfl, by rfl, by rfl, rfl, by rfl, rfl, rfl, rfl, by rfl, rfl⟩
  · simp only [State.reset, Vector.getElem_replicate, implies_true, true_and]
    exact ⟨hiddenZero_reset, rfl⟩

/-- Settles O6: a reset discards what was in flight and leaves the state of reset but for the model's own fields. -/
theorem resetFromAnyState : Obligations.ResetFromAnyState := by
  intro p s s' rest h hstep
  rw [stepOn_reset h] at hstep
  cases hstep
  have hstatus : statusWord State.reset = 0 := by decide
  exact ⟨rfl, ⟨rfl, rfl, rfl, rfl, rfl, rfl⟩, rfl, rfl, rfl, hstatus,
    ⟨rfl, rfl, rfl, rfl, rfl, rfl, rfl, rfl, rfl, rfl⟩, rfl, rfl, rfl⟩

/-! ### What a step can do -/

/-- `s'` differs from `s` in nothing an engine step reads or a command protects: what a host access, a dropped write and
a change of the units leave as it is (20_memory.md R69, 70_reset_and_hazards.md R246). -/
structure EngineKept (s' s : State) : Prop where
  phase : s'.phase = s.phase
  cmdw : s'.cmdw = s.cmdw
  pend : s'.pend = s.pend
  u : s'.u = s.u
  t : s'.t = s.t
  work : s'.work = s.work
  shaReq : s'.shaReq = s.shaReq
  valid : s'.valid = s.valid
  err : s'.err = s.err
  op : s'.op = s.op
  iter : s'.iter = s.iter
  errInfo : s'.errInfo = s.errInfo
  seed : s'.seed = s.seed
  done : s.done = false → s'.done = false
  data : s.phase = .busy → SameData s' s

/-- The bus value, the units' availability and the coming events are the model's own (assumption log 1, 5, 6). -/
theorem engineKept_with_own (s : State) (r : Option Word) (sha hmac : Bool) (l : List Event) :
    EngineKept { s with rdata := r, shaUp := sha, hmacUp := hmac, inputs := l } s :=
  ⟨rfl, rfl, rfl, rfl, rfl, rfl, rfl, rfl, rfl, rfl, rfl, rfl, rfl, id,
    fun _ => ⟨rfl, rfl, rfl, rfl, rfl, rfl, rfl, rfl, rfl, rfl⟩⟩

theorem engineKept_dropWrite (s : State) : EngineKept (dropWrite s) s :=
  ⟨rfl, rfl, rfl, rfl, rfl, rfl, rfl, rfl, rfl, rfl, rfl, rfl, rfl, id,
    fun _ => ⟨rfl, rfl, rfl, rfl, rfl, rfl, rfl, rfl, rfl, rfl⟩⟩

theorem engineKept_writeAt (s : State) (off : Nat) (v : Word) : EngineKept (writeAt s off v) s := by
  obtain ⟨hphase, hcmdw, hpend, hu, ht, hwork, hsha, hvalid, herr, hop, hiter, hinfo, hseed, -, -, -, -, hdone,
    hdata⟩ := writeSlot_frame s v (slotOf off)
  exact ⟨hphase, hcmdw, hpend, hu, ht, hwork, hsha, hvalid, herr, hop, hiter, hinfo, hseed, hdone, hdata⟩

/-- The event a step takes comes off the list; an empty list stays (assumption log 1). -/
def dequeued (s : State) : State := { s with inputs := s.inputs.tail }

theorem engineKept_dequeued (s : State) : EngineKept (dequeued s) s := engineKept_with_own s _ _ _ _

theorem dequeued_of_cons {s : State} {e : Event} {rest : List Event} (h : s.inputs = e :: rest) :
    dequeued s = { s with inputs := rest } := by
  rw [dequeued, h, List.tail_cons]

theorem EngineKept.of_dequeued {s' s : State} (h : EngineKept s' (dequeued s)) : EngineKept s' s :=
  ⟨h.phase, h.cmdw, h.pend, h.u, h.t, h.work, h.shaReq, h.valid, h.err, h.op, h.iter, h.errInfo, h.seed, h.done,
    fun hb => let d := h.data hb
      ⟨d.ent, d.idx, d.seed, d.pass, d.mnem, d.entLen, d.wordCnt, d.mnemLen, d.passLen, d.lang⟩⟩

/-- What a step can do: a turn of the engine, a reset, an accept step, or an event that leaves the engine alone
(20_memory.md R71). -/
inductive StepTo (p : Platform) (s : State) : State → Prop
  | engine (h : s.inputs = [] ∨ ∃ rest, s.inputs = .engine :: rest) : StepTo p s (engineStep p (dequeued s))
  | reset (h : ∃ rest, s.inputs = .reset :: rest) : StepTo p s (resetBlock (dequeued s))
  | command (i : Instr) (hidle : s.phase = .idle) (h : ∃ rest, s.inputs = .write ⟨0x004, 4⟩ (encode i) :: rest) :
      StepTo p s (accept (acceptBase i (dequeued s)) (encode i) (launchOf p i (dequeued s)))
  | illegal (v : Word) (hv : commandOf v = none) (hidle : s.phase = .idle)
      (h : ∃ rest, s.inputs = .write ⟨0x004, 4⟩ v :: rest) :
      StepTo p s (accept (dequeued s) v { pend := .fail ⟨.illegalCommand, v⟩ })
  | kept {s' : State} (h : EngineKept s' s) : StepTo p s s'

/-- A host write to CMD is accepted while IDLE and dropped while BUSY (10_state.md R23). -/
theorem stepTo_of_writeCmd {p : Platform} {s s' : State} {v : Word}
    (hin : ∃ rest, s.inputs = .write ⟨0x004, 4⟩ v :: rest)
    (h : writeCmd (execOn p) execIllegal (dequeued s) v = .next s') : StepTo p s s' := by
  rcases hphase : s.phase with _ | _
  · have hidle : (dequeued s).phase = .idle := hphase
    rcases writeCmd_cases p (dequeued s) v with ⟨i, hv, e⟩ | ⟨_, hv, e⟩ <;> rw [e] at h
    · obtain rfl := (decode_eq_ok_iff v i).1 hv
      rw [execOn_of_idle hidle] at h
      cases h
      exact .command i hphase hin
    · rw [issue_of_idle hidle] at h
      cases h
      exact .illegal v (by rw [commandOf, hv]; rfl) hphase hin
  · rw [writeCmd_of_busy (s := dequeued s) hphase] at h
    cases h
    exact .kept (engineKept_dropWrite _).of_dequeued

theorem stepTo_of_write {p : Platform} {s s' : State} {a : Access} {v : Word}
    (hin : ∃ rest, s.inputs = .write a v :: rest)
    (h : stepEvent (execOn p) p (dequeued s) (.write a v) = .next s') : StepTo p s s' := by
  by_cases hwf : a.wf = true
  · obtain ⟨off, n⟩ := a
    obtain ⟨rfl, hword, hrange⟩ := (access_wf_iff _).1 hwf
    rw [stepEvent_write _ hword hrange] at h
    by_cases hcmd : off = 0x004
    · subst hcmd
      exact stepTo_of_writeCmd hin h
    · rw [hostWrite_of_ne_cmd _ hcmd] at h
      cases h
      exact .kept (engineKept_writeAt _ off v).of_dequeued
  · rw [stepEvent, if_neg hwf] at h
    cases h

theorem stepTo_of_stepOn {p : Platform} {s s' : State} (h : stepOn p s = .next s') : StepTo p s s' := by
  cases hin : s.inputs with
  | nil =>
    have hsame : dequeued s = s := by
      cases s
      simp_all [dequeued]
    have hturn : s' = engineStep p (dequeued s) := by
      simp only [stepOn, stepWith, hin] at h
      cases h
      rw [hsame]
    exact hturn ▸ .engine (.inl hin)
  | cons e rest =>
    rw [stepOn_of_cons hin, ← dequeued_of_cons hin] at h
    cases e with
    | read a =>
      simp only [stepEvent] at h
      split_ifs at h
      cases h
      exact .kept (engineKept_with_own s _ _ _ _)
    | write a v => exact stepTo_of_write ⟨rest, hin⟩ h
    | engine =>
      cases h
      exact .engine (.inr ⟨rest, hin⟩)
    | reset =>
      cases h
      exact .reset ⟨rest, hin⟩
    | units sha hmac =>
      cases h
      exact .kept (engineKept_with_own s _ _ _ _)

end Sys2Proof.Machine
end

section
/-! PROOFS. What the accept step of each command puts into hidden state: its outcome, the outputs that outcome writes,
the kinds it can raise, its digest request and its working storage (10_state.md R48 to R53, 60_exceptions.md R212). -/

namespace Sys2Proof.Machine

/-! ### Outcomes in PEND -/

@[simp] theorem ofBody_eq_ok_iff (b : Except Raise Writes) (w : Writes) : Pend.ofBody b = .ok w ↔ b = .ok w := by
  cases b <;> simp [Pend.ofBody]

@[simp] theorem ofBody_eq_fail_iff (b : Except Raise Writes) (r : Raise) : Pend.ofBody b = .fail r ↔ b = .error r := by
  cases b <;> simp [Pend.ofBody]

@[simp] theorem ofBody_ne_none (b : Except Raise Writes) : Pend.ofBody b ≠ .none := by
  cases b <;> simp [Pend.ofBody]

@[simp] theorem ofBody_ne_derive (b : Except Raise Writes) : Pend.ofBody b ≠ .derive := by
  cases b <;> simp [Pend.ofBody]

/-- Only a DERIVE has iterate steps; every other command's outcome is that of its body (10_state.md R51). -/
theorem launchOf_pend_eq_ofBody {i : Instr} (h : i ≠ .derive) (p : Platform) (s : State) :
    ∃ b, (launchOf p i s).pend = .ofBody b := by
  cases i with
  | derive => exact absurd rfl h
  | check => exact ⟨checkBody p s, rfl⟩
  | clear => exact ⟨clearBody, rfl⟩
  | encode | decode | pack | unpack | lookup | search => exact ⟨_, rfl⟩

/-- What a DERIVE starts with: the failed length test, or "DERIVE running" (44_seed.md R183). -/
theorem launchOf_derive_cases (p : Platform) (s : State) :
    (∃ r, deriveError s = some r ∧ launchOf p .derive s = { pend := .fail r }) ∨
      (deriveError s = none ∧
        launchOf p .derive s = { pend := .derive, work := { salt := firstMessage s } }) := by
  simp only [launchOf, deriveLaunch]
  cases deriveError s with
  | some r => exact .inl ⟨r, rfl, rfl⟩
  | none => exact .inr ⟨rfl, rfl⟩

theorem launchOf_pend_ne_none (p : Platform) (i : Instr) (s : State) : (launchOf p i s).pend ≠ .none := by
  by_cases hi : i = .derive
  · subst hi
    rcases launchOf_derive_cases p s with ⟨r, -, h⟩ | ⟨-, h⟩ <;> simp [h]
  · obtain ⟨b, hb⟩ := launchOf_pend_eq_ofBody hi p s
    simp [hb]

theorem launchOf_pend_eq_derive {p : Platform} {i : Instr} {s : State} (h : (launchOf p i s).pend = .derive) :
    i = .derive ∧ deriveError s = none := by
  by_cases hi : i = .derive
  · subst hi
    rcases launchOf_derive_cases p s with ⟨r, -, hr⟩ | ⟨hrun, -⟩
    · simp [hr] at h
    · exact ⟨rfl, hrun⟩
  · obtain ⟨b, hb⟩ := launchOf_pend_eq_ofBody hi p s
    simp [hb] at h

/-- A CHECK reports no failure and a CLEAR cannot fail (43_codec.md R166, 45_housekeeping.md R200). -/
theorem launchOf_pend_fail {p : Platform} {i : Instr} {s : State} {r : Raise}
    (h : (launchOf p i s).pend = .fail r) : i ≠ .check ∧ i ≠ .clear := by
  constructor <;> rintro rfl <;> simp [launchOf, checkBody, clearBody] at h

/-! ### What a success writes -/

theorem searchBody_ok_indexWrites {p : Platform} {s : State} {w : Writes} (h : searchBody p s = .ok w) :
    ∃ xs, w = indexWrites xs := by
  cases hx : searchIndices p s with
  | error r => simp [searchBody_of_searchIndices_error hx] at h
  | ok xs => exact ⟨xs, by simpa [searchBody_of_searchIndices_ok hx, eq_comm] using h⟩

theorem encodeBody_ok_withIndices {p : Platform} {s : State} {w : Writes} (h : encodeBody p s = .ok w) :
    ∃ str xs, w = (mnemonicWrites str).withIndices xs := by
  cases hx : packResult p s with
  | error r =>
    obtain ⟨r', hr'⟩ := encodeBody_of_packResult_error p hx
    simp [hr'] at h
  | ok xs =>
    rw [encodeBody_of_packResult_ok p hx] at h
    cases hl : checkWordlist p s <;> rw [hl] at h <;> cases h
    exact ⟨_, xs, rfl⟩

theorem decodeBody_ok_withIndices {p : Platform} {s : State} {w : Writes} (h : decodeBody p s = .ok w) :
    ∃ e xs, w = (entropyWrites e).withIndices xs := by
  unfold decodeBody at h
  split at h
  · cases h
  · split at h <;> cases h
    exact ⟨_, _, rfl⟩

/-- A command that succeeds writes outputs of its own only (10_state.md R52, R53). -/
theorem within_of_launchOf_ok {p : Platform} {i : Instr} {s : State} {w : Writes}
    (h : (launchOf p i s).pend = .ok w) : w.within (zeroOutputs i) = true := by
  cases i with
  | derive => rcases launchOf_derive_cases p s with ⟨r, -, hr⟩ | ⟨-, hr⟩ <;> simp [hr] at h
  | encode => obtain ⟨str, xs, rfl⟩ := encodeBody_ok_withIndices ((ofBody_eq_ok_iff _ _).1 h); rfl
  | decode => obtain ⟨e, xs, rfl⟩ := decodeBody_ok_withIndices ((ofBody_eq_ok_iff _ _).1 h); rfl
  | pack => obtain ⟨-, rfl⟩ := (packBody_eq_ok_iff p s w).1 ((ofBody_eq_ok_iff _ _).1 h); rfl
  | unpack => obtain ⟨-, -, -, rfl⟩ := (unpackBody_eq_ok_iff p s w).1 ((ofBody_eq_ok_iff _ _).1 h); rfl
  | lookup => obtain ⟨str, rfl⟩ := lookupBody_ok_mnemonicWrites ((ofBody_eq_ok_iff _ _).1 h); rfl
  | search => obtain ⟨xs, rfl⟩ := searchBody_ok_indexWrites ((ofBody_eq_ok_iff _ _).1 h); rfl
  | check | clear => cases h; rfl

/-! ### What a failure reports -/

theorem kind_of_checkWordlist_error {p : Platform} {s : State} {r : Raise} (h : checkWordlist p s = .error r) :
    r.kind = .invalidWordlist := by
  unfold checkWordlist at h
  split_ifs at h
  cases h
  rfl

theorem kind_of_packResult_error {p : Platform} {s : State} {r : Raise} (h : packResult p s = .error r) :
    r.kind = .invalidEntropyLength := by
  unfold packResult at h
  split_ifs at h
  cases h
  rfl

theorem kind_of_verified_error {p : Platform} {xs : List Nat} {r : Raise} (h : verified p xs = .error r) :
    r.kind = .checksumMismatch := by
  unfold verified at h
  split_ifs at h
  cases h
  rfl

theorem kind_of_findTokens_error {p : Platform} {l : LangId} {j : Nat} {ts : List Bytes} {r : Raise}
    (h : findTokens p l j ts = .error r) : r.kind = .invalidWord := by
  induction ts generalizing j with
  | nil => cases h
  | cons t rest ih =>
    unfold findTokens at h
    split at h
    · cases h
      rfl
    · split at h <;> cases h
      exact ih ‹_›

theorem kind_of_lookupIndices_error {s : State} {r : Raise} (h : lookupIndices s = .error r) :
    r.kind = .badLength ∨ r.kind = .badIndex := by
  unfold lookupIndices at h
  split_ifs at h
  · cases h
    exact .inl rfl
  · split at h <;> cases h
    exact .inr rfl

theorem kind_of_unpackIndices_error {s : State} {r : Raise} (h : unpackIndices s = .error r) :
    r.kind = .invalidMnemonicLength ∨ r.kind = .badIndex := by
  unfold unpackIndices at h
  split_ifs at h
  · split at h <;> cases h
    exact .inr rfl
  · cases h
    exact .inl rfl

theorem kind_of_searchIndices_error {p : Platform} {s : State} {r : Raise} (h : searchIndices p s = .error r) :
    r.kind = .invalidWordlist ∨ r.kind = .badLength ∨ r.kind = .invalidWord := by
  unfold searchIndices at h
  split at h
  · cases h
    exact .inl (kind_of_checkWordlist_error ‹_›)
  · split_ifs at h
    · cases h
      exact .inr (.inl rfl)
    · exact .inr (.inr (kind_of_findTokens_error h))

theorem kind_of_decodeBody_error {p : Platform} {s : State} {r : Raise} (h : decodeBody p s = .error r) :
    r.kind = .invalidWordlist ∨ r.kind = .badLength ∨ r.kind = .invalidWord ∨ r.kind = .invalidMnemonicLength ∨
      r.kind = .checksumMismatch := by
  cases hx : searchIndices p s with
  | error r' =>
    rw [decodeBody_of_searchIndices_error hx] at h
    cases h
    rcases kind_of_searchIndices_error hx with hk | hk | hk <;> simp [hk]
  | ok xs =>
    rw [decodeBody, decodeIndices_of_searched hx] at h
    split_ifs at h
    · dsimp only at h
      split at h <;> cases h
      simp [kind_of_verified_error ‹_›]
    · cases h
      simp

theorem kind_of_searchBody_error {p : Platform} {s : State} {r : Raise} (h : searchBody p s = .error r) :
    r.kind = .invalidWordlist ∨ r.kind = .badLength ∨ r.kind = .invalidWord := by
  unfold searchBody at h
  split at h <;> cases h
  exact kind_of_searchIndices_error ‹_›

theorem kind_of_packBody_error {p : Platform} {s : State} {r : Raise} (h : packBody p s = .error r) :
    r.kind = .invalidEntropyLength := by
  unfold packBody at h
  split at h <;> cases h
  exact kind_of_packResult_error ‹_›

theorem kind_of_encodeBody_error {p : Platform} {s : State} {r : Raise} (h : encodeBody p s = .error r) :
    r.kind = .invalidWordlist ∨ r.kind = .invalidEntropyLength := by
  unfold encodeBody at h
  split at h
  · cases h
    exact .inl (kind_of_checkWordlist_error ‹_›)
  · split at h <;> cases h
    exact .inr (kind_of_packResult_error ‹_›)

theorem kind_of_unpackBody_error {p : Platform} {s : State} {r : Raise} (h : unpackBody p s = .error r) :
    r.kind = .invalidMnemonicLength ∨ r.kind = .badIndex ∨ r.kind = .checksumMismatch := by
  unfold unpackBody at h
  split at h
  · cases h
    rcases kind_of_unpackIndices_error ‹_› with hk | hk <;> simp [hk]
  · split at h <;> cases h
    simp [kind_of_verified_error ‹_›]

theorem kind_of_lookupBody_error {p : Platform} {s : State} {r : Raise} (h : lookupBody p s = .error r) :
    r.kind = .invalidWordlist ∨ r.kind = .badLength ∨ r.kind = .badIndex := by
  unfold lookupBody at h
  split at h
  · cases h
    exact .inl (kind_of_checkWordlist_error ‹_›)
  · split at h <;> cases h
    exact .inr (kind_of_lookupIndices_error ‹_›)

theorem kind_of_deriveError {s : State} {r : Raise} (h : deriveError s = some r) : r.kind = .badLength := by
  unfold deriveError at h
  split_ifs at h <;> cases h <;> rfl

/-- The kinds a command can raise (60_exceptions.md R212). -/
def raisedKinds : Instr → List ErrorKind
  | .encode => [.invalidWordlist, .invalidEntropyLength]
  | .decode => [.invalidWordlist, .badLength, .invalidWord, .invalidMnemonicLength, .checksumMismatch]
  | .check | .clear => []
  | .derive => [.badLength]
  | .pack => [.invalidEntropyLength]
  | .unpack => [.invalidMnemonicLength, .badIndex, .checksumMismatch]
  | .lookup => [.invalidWordlist, .badLength, .badIndex]
  | .search => [.invalidWordlist, .badLength, .invalidWord]

theorem kind_mem_raises {p : Platform} {i : Instr} {s : State} {r : Raise} (h : (launchOf p i s).pend = .fail r) :
    r.kind ∈ raisedKinds i := by
  cases i with
  | check => exact absurd rfl (launchOf_pend_fail h).1
  | clear => exact absurd rfl (launchOf_pend_fail h).2
  | derive =>
    rcases launchOf_derive_cases p s with ⟨r', herr, hr⟩ | ⟨-, hr⟩ <;> rw [hr] at h <;> cases h
    simp [raisedKinds, kind_of_deriveError herr]
  | encode => simpa [raisedKinds] using kind_of_encodeBody_error ((ofBody_eq_fail_iff _ _).1 h)
  | decode => simpa [raisedKinds] using kind_of_decodeBody_error ((ofBody_eq_fail_iff _ _).1 h)
  | pack => simpa [raisedKinds] using kind_of_packBody_error ((ofBody_eq_fail_iff _ _).1 h)
  | unpack => simpa [raisedKinds] using kind_of_unpackBody_error ((ofBody_eq_fail_iff _ _).1 h)
  | lookup => simpa [raisedKinds] using kind_of_lookupBody_error ((ofBody_eq_fail_iff _ _).1 h)
  | search => simpa [raisedKinds] using kind_of_searchBody_error ((ofBody_eq_fail_iff _ _).1 h)

/-- Settles O60: the kinds of `raisedKinds`, read column by column. -/
theorem whichCommandRaisesWhich : Obligations.WhichCommandRaisesWhich := by
  intro p i s t r hidle ht hpend
  rw [execOn_of_idle hidle] at ht
  cases ht
  have hkind := kind_mem_raises (p := p) (i := i) (s := s) hpend
  generalize r.kind = k at hkind ⊢
  revert k
  cases i <;> decide

/-! ### Digest requests -/

theorem length_of_packRequest {s : State} {m : Bytes} (h : packRequest s = some m) :
    m.length ∈ [16, 20, 24, 28, 32] := by
  unfold packRequest at h
  split_ifs at h with hlen
  cases h
  rw [validLen_iff] at hlen
  rwa [length_entropy hlen]

theorem length_of_encodeRequest {p : Platform} {s : State} {m : Bytes} (h : encodeRequest p s = some m) :
    m.length ∈ [16, 20, 24, 28, 32] := by
  unfold encodeRequest at h
  split at h
  · cases h
  · exact length_of_packRequest h

theorem length_splitEntropy_mem {xs : List Nat} (h : xs.length ∈ [12, 15, 18, 21, 24]) :
    (splitEntropy xs).length ∈ [16, 20, 24, 28, 32] := by
  rw [length_splitEntropy]
  exact entLenOfWords_mem h

theorem length_of_unpackRequest {s : State} {m : Bytes} (h : unpackRequest s = some m) :
    m.length ∈ [16, 20, 24, 28, 32] := by
  unfold unpackRequest at h
  split at h <;> cases h
  next xs hxs =>
    obtain ⟨hcnt, -, rfl⟩ := (unpackIndices_eq_ok_iff s xs).1 hxs
    exact length_splitEntropy_mem (by rwa [length_indices hcnt])

theorem length_of_decodeIndices {p : Platform} {s : State} {xs : List Nat} (h : decodeIndices p s = .ok xs) :
    xs.length ∈ [12, 15, 18, 21, 24] := by
  unfold decodeIndices at h
  split at h
  · cases h
  · split_ifs at h with hcnt
    cases h
    exact (validCnt_iff _).1 hcnt

theorem length_of_decodeRequest {p : Platform} {s : State} {m : Bytes} (h : decodeRequest p s = some m) :
    m.length ∈ [16, 20, 24, 28, 32] := by
  unfold decodeRequest at h
  split at h <;> cases h
  exact length_splitEntropy_mem (length_of_decodeIndices ‹_›)

/-- A SHA256 request carries 16, 20, 24, 28 or 32 bytes (20_memory.md R76). -/
theorem length_of_launchOf_shaReq {p : Platform} {i : Instr} {s : State} {m : Bytes}
    (h : (launchOf p i s).shaReq = some m) : m.length ∈ [16, 20, 24, 28, 32] := by
  cases i with
  | encode => exact length_of_encodeRequest h
  | decode | check => exact length_of_decodeRequest h
  | pack => exact length_of_packRequest h
  | unpack => exact length_of_unpackRequest h
  | derive => rcases launchOf_derive_cases p s with ⟨r, -, hr⟩ | ⟨-, hr⟩ <;> simp [hr] at h
  | lookup | search | clear => cases h

/-! ### Working storage -/

/-- The sizes of the working storage (10_state.md R48, 41_checksum.md R130). -/
def Work.Fits (k : Work) : Prop :=
  k.w.length ≤ 33 ∧ k.digest.length ≤ 1 ∧ k.token.length ≤ 1024 ∧ k.salt.length ≤ 268

theorem work_fits_empty : Work.Fits {} := by simp [Work.Fits]

theorem work_fits_ofRequest (p : Platform) {req : Option Bytes}
    (h : ∀ m, req = some m → m.length ∈ [16, 20, 24, 28, 32]) : (Work.ofRequest p req).Fits := by
  cases req with
  | none => exact work_fits_empty
  | some m =>
    have hm := validLen_le (h m rfl)
    simpa [Work.Fits, Work.ofRequest, Nat.lt_succ_iff] using hm

theorem Work.Fits.with_token {k : Work} (hk : k.Fits) {t : Bytes} (ht : t.length ≤ 1024) :
    Work.Fits { k with token := t } := by
  obtain ⟨hw, hdigest, -, hsalt⟩ := hk
  exact ⟨hw, hdigest, ht, hsalt⟩

theorem stopToken_eq_nil_or_mem (p : Platform) (l : LangId) (ts : List Bytes) :
    stopToken p l ts = [] ∨ stopToken p l ts ∈ ts := by
  induction ts with
  | nil => exact .inl rfl
  | cons t rest ih =>
    cases rest with
    | nil => exact .inr (List.mem_singleton_self t)
    | cons u rest =>
      rw [stopToken]
      · split_ifs
        · exact .inr List.mem_cons_self
        · exact ih.imp_right (List.mem_cons_of_mem t)
      · simp

theorem length_token_le {x t : Bytes} (h : t ∈ tokens x) : t.length ≤ x.length := by
  obtain ⟨q, -, rfl⟩ := mem_tokens h
  exact (List.takeWhile_sublist _).length_le.trans (List.drop_sublist ..).length_le

theorem length_searchToken_le (p : Platform) (s : State) : (searchToken p s).length ≤ 1024 := by
  have hmnem : (mnemonic s).length ≤ 1024 := by simp [mnemonic]
  unfold searchToken
  split
  · simp
  · split_ifs
    · simp
    · next l _ _ =>
      rcases stopToken_eq_nil_or_mem p l (tokens (mnemonic s)) with h | h
      · simp [h]
      · exact (length_token_le h).trans hmnem

theorem length_firstMessage_le (s : State) : (firstMessage s).length ≤ 268 := by
  have hpass : (passphrase s).length ≤ 256 := by simp [passphrase]
  simp only [firstMessage, salt, List.length_append, Config.saltPrefix, Config.blockCounter, List.length_cons,
    List.length_nil]
  omega

theorem launchOf_work_fits (p : Platform) (i : Instr) (s : State) : (launchOf p i s).work.Fits := by
  cases i with
  | encode => exact work_fits_ofRequest p fun _ => length_of_encodeRequest
  | decode | check =>
    exact (work_fits_ofRequest p fun _ => length_of_decodeRequest).with_token (length_searchToken_le p s)
  | pack => exact work_fits_ofRequest p fun _ => length_of_packRequest
  | unpack => exact work_fits_ofRequest p fun _ => length_of_unpackRequest
  | search => exact work_fits_empty.with_token (length_searchToken_le p s)
  | lookup | clear => exact work_fits_empty
  | derive =>
    rcases launchOf_derive_cases p s with ⟨r, -, hr⟩ | ⟨-, hr⟩ <;> rw [hr]
    · exact work_fits_empty
    · simpa [Work.Fits] using length_firstMessage_le s

end Sys2Proof.Machine
end

section
/-! PROOFS. The accept step and the complete step of every command (10_state.md R50, R52, 60_exceptions.md R214,
20_memory.md R78). -/

namespace Sys2Proof.Machine

/-! ### Accept -/

/-- A DERIVE that runs starts with U and T zero; nothing else happens before the accept step (44_seed.md R184). -/
theorem acceptBase_cases (i : Instr) (s : State) :
    acceptBase i s = s ∨ (i = .derive ∧ acceptBase i s = { s with u := zeroSeed, t := zeroSeed }) := by
  unfold acceptBase clearChain
  split_ifs
  · exact .inl rfl
  · exact .inr ⟨‹_›, rfl⟩
  · exact .inl rfl

theorem sameData_refl (s : State) : SameData s s := ⟨rfl, rfl, rfl, rfl, rfl, rfl, rfl, rfl, rfl, rfl⟩

theorem sameData_acceptBase (i : Instr) (s : State) : SameData (acceptBase i s) s := by
  rcases acceptBase_cases i s with h | ⟨-, h⟩ <;> rw [h]
  · exact sameData_refl s
  · exact ⟨rfl, rfl, rfl, rfl, rfl, rfl, rfl, rfl, rfl, rfl⟩

/-- Settles O7: every command is one accept step, and a DERIVE that runs zeroes U and T before it. -/
theorem acceptStepOfEveryCommand : Obligations.AcceptStepOfEveryCommand := by
  intro i s hidle
  refine ⟨_, (exec_eq_execOn i s).trans (execOn_of_idle hidle _ i), rfl, rfl, rfl, rfl, rfl, rfl, rfl,
    launchOf_pend_ne_none _ i s, fun h => (launchOf_pend_eq_derive h).1, rfl, ?_⟩
  rcases acceptBase_cases i s with h | ⟨hi, h⟩ <;> rw [h]
  · exact ⟨⟨rfl, rfl, rfl, rfl, rfl, rfl, rfl, rfl, rfl, rfl⟩, rfl, rfl, rfl, rfl, rfl, rfl, fun _ => ⟨rfl, rfl⟩⟩
  · exact ⟨⟨rfl, rfl, rfl, rfl, rfl, rfl, rfl, rfl, rfl, rfl⟩, rfl, rfl, rfl, rfl, rfl, rfl, absurd hi⟩

/-! ### Complete -/

theorem hiddenZero_finish (s : State) : HiddenZero (finish s) := ⟨rfl, rfl, rfl, rfl, rfl, rfl⟩

theorem answersIn_iff (s : State) : answersIn s = true ↔ s.shaReq = none ∨ s.shaUp = true := by simp [answersIn]

/-- Settles O9: a success is `completeOk` of its writes. -/
theorem completeStepOnSuccess : Obligations.CompleteStepOnSuccess := by
  intro p s w hbusy hpend hanswers
  refine ⟨_, engineStep_of_ok hbusy ((answersIn_iff s).2 hanswers) hpend p, rfl, rfl, rfl, rfl,
    hiddenZero_finish _, ?_⟩
  exact ⟨rfl, rfl, rfl, rfl, rfl, rfl, rfl, rfl, rfl, rfl, rfl, rfl, rfl, rfl, rfl, rfl, rfl, rfl, rfl⟩

/-- Settles O10: a failure is `completeFail`, which commits the zeroed outputs of the command in CMDW. -/
theorem completeStepOnFailure : Obligations.CompleteStepOnFailure := by
  intro p s i r hi hbusy hcmdw hpend hanswers
  have hout : zeroOutputsOf s.cmdw = zeroOutputs i := by simp [zeroOutputsOf, hcmdw]
  refine ⟨_, engineStep_of_fail hbusy ((answersIn_iff s).2 hanswers) hpend p, rfl, rfl, rfl, rfl,
    hiddenZero_finish _, ?_⟩
  rw [completeFail, hout]
  cases i with
  | check => simp at hi
  | clear => simp at hi
  | encode | decode | derive | pack | unpack | lookup | search =>
    exact ⟨rfl, rfl, rfl, rfl, rfl, rfl, rfl, rfl, rfl, rfl, rfl, rfl, rfl, rfl, rfl, rfl, rfl, rfl, rfl⟩

/-! ### A unit that does not answer -/

/-- Without an answer of HMAC512 a DERIVE with calls to make waits (20_memory.md R78). -/
theorem engineStep_of_no_hmac {s : State} (hp : s.pend = .derive) (hi : s.iter.toNat < 2048) (hh : s.hmacUp = false)
    (p : Platform) : engineStep p s = s := by
  have hcomplete : completeEnabled s = false := by
    simp [completeEnabled, hp, Config.iterTotal, hi]
  simp [engineStep, iterateEnabled, hh, hcomplete]

theorem engineSteps_of_fixed {p : Platform} {s : State} (h : engineStep p s = s) (k : Nat) :
    engineSteps p k s = s := by
  induction k with
  | zero => rfl
  | succ k ih => rw [engineSteps, h, ih]

/-- Settles O12: a turn without the answer it needs changes nothing, and so does any number of them. -/
theorem unitThatNeverAnswersHangs : Obligations.UnitThatNeverAnswersHangs := by
  intro p s k _ h
  refine engineSteps_of_fixed ?_ k
  rcases h with ⟨hpend, hreq, hsha⟩ | ⟨hpend, hiter, hhmac⟩
  · refine engineStep_of_no_answer ?_ hpend p
    rw [Bool.eq_false_iff, Ne, answersIn_iff]
    simp [hreq, hsha]
  · exact engineStep_of_no_hmac hpend hiter hhmac p

end Sys2Proof.Machine
end

section
/-! PROOFS. What every step keeps: the invariant of the engine and its flags, the chain of a running DERIVE, and what
the phase, SEED and the buffers can do in a step (10_state.md R45, R48 to R53, 44_seed.md R184, 20_memory.md R70). -/

namespace Sys2Proof.Machine

/-! ### The outputs of a command word -/

theorem commandOf_eq_some_iff (v : Word) (i : Instr) : commandOf v = some i ↔ v = encode i := by
  rw [← decode_eq_ok_iff, commandOf]
  cases decode v <;> simp [Except.toOption]

theorem zeroOutputsOf_of_illegal {v : Word} (h : commandOf v = none) : zeroOutputsOf v = {} := by
  rw [zeroOutputsOf, h]

@[simp] theorem zeroOutputsOf_encode (i : Instr) : zeroOutputsOf (encode i) = zeroOutputs i := by
  simp [zeroOutputsOf]

/-- VALID is an output of CHECK alone, and is zeroed to 0 (10_state.md R53). -/
theorem zeroOutputsOf_valid (v : Word) :
    (zeroOutputsOf v).valid = none ∨ (v = encode .check ∧ (zeroOutputsOf v).valid = some false) := by
  cases h : commandOf v with
  | none => exact .inl (by rw [zeroOutputsOf_of_illegal h])
  | some i =>
    obtain rfl := (commandOf_eq_some_iff v i).1 h
    rw [zeroOutputsOf_encode]
    cases i with
    | check => exact .inr ⟨rfl, rfl⟩
    | encode | decode | derive | pack | unpack | lookup | search | clear => exact .inl rfl

/-- SEED is an output of DERIVE and of CLEAR (10_state.md R45, R53). -/
theorem zeroOutputsOf_seed (v : Word) :
    (zeroOutputsOf v).seed = none ∨ v = encode .derive ∨ v = encode .clear := by
  cases h : commandOf v with
  | none => exact .inl (by rw [zeroOutputsOf_of_illegal h])
  | some i =>
    obtain rfl := (commandOf_eq_some_iff v i).1 h
    rw [zeroOutputsOf_encode]
    cases i with
    | derive => exact .inr (.inl rfl)
    | clear => exact .inr (.inr rfl)
    | encode | decode | check | pack | unpack | lookup | search => exact .inl rfl

theorem valid_eq_none_of_within {a b : Writes} (h : a.within b = true) (hb : b.valid = none) : a.valid = none := by
  simp only [Writes.within, Bool.and_eq_true, hb] at h
  simpa using h.2

theorem seed_eq_none_of_within {a b : Writes} (h : a.within b = true) (hb : b.seed = none) : a.seed = none := by
  simp only [Writes.within, Bool.and_eq_true, hb] at h
  simpa using h.1.2

/-! ### The invariant -/

/-- Settles O53: after reset everything the invariant speaks of is zero. -/
theorem invariantAfterReset : Obligations.InvariantAfterReset where
  idleHidden _ := hiddenZero_reset
  busyPend := nofun
  busyOp := nofun
  busyFlags := nofun
  iterBound := Nat.zero_le _
  iterOp h := absurd rfl h
  deriveRuns := nofun
  otherChain := nofun
  pendWithin _ := nofun
  validOp := nofun
  errInfoZero _ := rfl
  shaLength _ := nofun
  pendFail _ := nofun
  workSize := work_fits_empty

theorem busy_of_pend {s : State} (hs : Inv s) (h : s.pend ≠ .none) : s.phase = .busy := by
  cases hphase : s.phase with
  | busy => rfl
  | idle => exact absurd (hs.idleHidden hphase).pend h

theorem inv_of_engineKept {s' s : State} (hs : Inv s) (h : EngineKept s' s) : Inv s' where
  idleHidden hidle :=
    let z := hs.idleHidden (h.phase ▸ hidle)
    ⟨h.cmdw.trans z.cmdw, h.pend.trans z.pend, h.u.trans z.u, h.t.trans z.t, h.work.trans z.work,
      h.shaReq.trans z.shaReq⟩
  busyPend hbusy := h.pend ▸ hs.busyPend (h.phase ▸ hbusy)
  busyOp hbusy := by
    rw [h.op, h.cmdw]
    exact hs.busyOp (h.phase ▸ hbusy)
  busyFlags hbusy := by
    obtain ⟨hdone, hvalid, herr, hinfo⟩ := hs.busyFlags (h.phase ▸ hbusy)
    exact ⟨h.done hdone, h.valid.trans hvalid, h.err.trans herr, h.errInfo.trans hinfo⟩
  iterBound := h.iter ▸ hs.iterBound
  iterOp hiter := h.op.trans (hs.iterOp (h.iter ▸ hiter))
  deriveRuns hpend := by
    have hrun : s.pend = .derive := h.pend ▸ hpend
    obtain ⟨hcmdw, hmnem, hpass⟩ := hs.deriveRuns hrun
    have hdata := h.data (busy_of_pend hs (by simp [hrun]))
    exact ⟨h.cmdw.trans hcmdw, hdata.mnemLen ▸ hmnem, hdata.passLen ▸ hpass⟩
  otherChain hbusy hpend := by
    rw [h.iter, h.u, h.t]
    exact hs.otherChain (h.phase ▸ hbusy) (h.pend ▸ hpend)
  pendWithin w hpend := by
    rw [h.cmdw]
    exact hs.pendWithin w (h.pend ▸ hpend)
  validOp hvalid := by
    rw [h.op, h.err]
    exact hs.validOp (h.valid ▸ hvalid)
  errInfoZero herr := h.errInfo.trans (hs.errInfoZero (h.err ▸ herr))
  shaLength m hreq := hs.shaLength m (h.shaReq ▸ hreq)
  pendFail r hpend := by
    rw [h.cmdw]
    exact hs.pendFail r (h.pend ▸ hpend)
  workSize := h.work ▸ hs.workSize

/-- The hidden state an accept step of the word `v` may start with (10_state.md R48, R50, R52). -/
structure LaunchOk (s : State) (v : Word) (l : Launch) : Prop where
  pend : l.pend ≠ .none
  derive : l.pend = .derive → v = encode .derive ∧ s.mnemLen.toNat ≤ 1024 ∧ s.passLen.toNat ≤ 256
  within : ∀ w, l.pend = .ok w → w.within (zeroOutputsOf v) = true
  fail : ∀ r, l.pend = .fail r → v ≠ encode .check ∧ v ≠ encode .clear
  shaLength : ∀ m, l.shaReq = some m → validLen m.length = true
  work : l.work.Fits

theorem launchOk_launchOf (p : Platform) (i : Instr) (s : State) : LaunchOk s (encode i) (launchOf p i s) where
  pend := launchOf_pend_ne_none p i s
  derive h := by
    obtain ⟨rfl, hrun⟩ := launchOf_pend_eq_derive h
    exact ⟨rfl, (deriveError_eq_none_iff s).1 hrun⟩
  within w h := by
    rw [zeroOutputsOf_encode]
    exact within_of_launchOf_ok h
  fail r h := (launchOf_pend_fail h).imp (mt encode_injective) (mt encode_injective)
  shaLength m h := (validLen_iff _).2 (length_of_launchOf_shaReq h)
  work := launchOf_work_fits p i s

theorem launchOk_illegal (s : State) {v : Word} (h : commandOf v = none) :
    LaunchOk s v { pend := .fail ⟨.illegalCommand, v⟩ } where
  pend := nofun
  derive := nofun
  within _ := nofun
  fail _ _ := by constructor <;> rintro rfl <;> simp at h
  shaLength _ := nofun
  work := work_fits_empty

theorem inv_accept {s : State} (hs : Inv s) (hidle : s.phase = .idle) {v : Word} {l : Launch} (hl : LaunchOk s v l) :
    Inv (accept s v l) where
  idleHidden := nofun
  busyPend _ := hl.pend
  busyOp _ := rfl
  busyFlags _ := ⟨rfl, rfl, rfl, rfl⟩
  iterBound := Nat.zero_le _
  iterOp h := absurd rfl h
  deriveRuns := hl.derive
  otherChain _ _ := ⟨rfl, (hs.idleHidden hidle).u, (hs.idleHidden hidle).t⟩
  pendWithin := hl.within
  validOp := nofun
  errInfoZero _ := rfl
  shaLength := hl.shaLength
  pendFail := hl.fail
  workSize := hl.work

/-- While IDLE U and T are zero already, so the accept step of a DERIVE zeroes nothing more. -/
theorem acceptBase_of_hiddenZero {s : State} (h : HiddenZero s) (i : Instr) : acceptBase i s = s := by
  rcases acceptBase_cases i s with e | ⟨-, e⟩
  · exact e
  · rw [e, ← h.u]
    cases s
    obtain ⟨-, -, hu, ht, -, -⟩ := h
    simp_all

/-- A complete step keeps the invariant when VALID is set by a CHECK that reports no error, and an error alone brings
information. -/
theorem inv_finish {s : State} (hs : Inv s) (hbusy : s.phase = .busy) {w : Writes} {e : Option ErrorKind} {info : Word}
    (hinfo : e = none → info = 0) (hvalid : w.valid = some true → s.op = 0x03 ∧ e = none) :
    Inv (finish { commit s w with err := e, errInfo := info }) where
  idleHidden _ := hiddenZero_finish _
  busyPend := nofun
  busyOp := nofun
  busyFlags := nofun
  iterBound := hs.iterBound
  iterOp := hs.iterOp
  deriveRuns := nofun
  otherChain := nofun
  pendWithin _ := nofun
  validOp h := by
    obtain ⟨-, hzero, -⟩ := hs.busyFlags hbusy
    have hset : w.valid.getD s.valid = true := h
    cases hw : w.valid with
    | none => simp [hw, hzero] at hset
    | some b => exact hvalid (by simpa [hw] using hset)
  errInfoZero := hinfo
  shaLength _ := nofun
  pendFail _ := nofun
  workSize := work_fits_empty

theorem inv_completeOk {s : State} (hs : Inv s) (hbusy : s.phase = .busy) {w : Writes} (hpend : s.pend = .ok w) :
    Inv (completeOk s w) := by
  refine inv_finish hs hbusy (fun _ => rfl) fun hset => ⟨?_, rfl⟩
  rcases zeroOutputsOf_valid s.cmdw with hnone | ⟨hcheck, -⟩
  · simp [valid_eq_none_of_within (hs.pendWithin w hpend) hnone] at hset
  · rw [hs.busyOp hbusy, hcheck]
    rfl

theorem inv_completeFail {s : State} (hs : Inv s) (hbusy : s.phase = .busy) (r : Raise) : Inv (completeFail s r) := by
  refine inv_finish hs hbusy nofun fun hset => ?_
  rcases zeroOutputsOf_valid s.cmdw with h | ⟨-, h⟩ <;> simp [h] at hset

theorem inv_complete {s : State} (hs : Inv s) (h : completeEnabled s = true) : Inv (complete s) := by
  have hbusy : s.phase = .busy := by
    simp only [completeEnabled, Bool.and_eq_true, busy_eq_true] at h
    exact h.1.1
  unfold complete
  cases hpend : s.pend with
  | none => exact hs
  | ok w => exact inv_completeOk hs hbusy hpend
  | fail r => exact inv_completeFail hs hbusy r
  | derive => exact inv_finish hs hbusy (fun _ => rfl) nofun

theorem iterate_iter_toNat (p : Platform) {s : State} (h : s.iter.toNat < 2048) :
    (iterate p s).iter.toNat = s.iter.toNat + 1 := by
  rw [iterate_iter]
  bv_omega

theorem inv_iterate (p : Platform) {s : State} (hs : Inv s) (h : iterateEnabled s = true) : Inv (iterate p s) := by
  obtain ⟨hbusy, hpend, hiter, -⟩ := (iterateEnabled_iff s).1 h
  obtain ⟨hcmdw, -, -⟩ := hs.deriveRuns hpend
  exact {
    idleHidden := fun hidle => by simp [hbusy] at hidle
    busyPend := hs.busyPend
    busyOp := hs.busyOp
    busyFlags := hs.busyFlags
    iterBound := by
      rw [iterate_iter_toNat p hiter]
      exact hiter
    iterOp := fun _ => by
      rw [iterate_op, hs.busyOp hbusy, hcmdw]
      rfl
    deriveRuns := hs.deriveRuns
    otherChain := fun _ hother => absurd hpend hother
    pendWithin := hs.pendWithin
    validOp := hs.validOp
    errInfoZero := hs.errInfoZero
    shaLength := hs.shaLength
    pendFail := hs.pendFail
    workSize := hs.workSize }

theorem inv_engineStep (p : Platform) {s : State} (hs : Inv s) : Inv (engineStep p s) := by
  rcases engineStep_cases p s with ⟨hiterate, e⟩ | ⟨-, hcomplete, e⟩ | ⟨-, -, e⟩ <;> rw [e]
  · exact inv_iterate p hs hiterate
  · exact inv_complete hs hcomplete
  · exact hs

/-- Settles O54: each thing a step can do keeps the invariant. -/
theorem everyStepKeepsTheInvariant : Obligations.EveryStepKeepsTheInvariant := by
  intro p s s' hs hstep
  have hd : Inv (dequeued s) := inv_of_engineKept hs (engineKept_dequeued s)
  cases stepTo_of_stepOn hstep with
  | engine => exact inv_engineStep p hd
  | reset => exact inv_of_engineKept invariantAfterReset (engineKept_with_own State.reset _ _ _ _)
  | command i hidle =>
    rw [acceptBase_of_hiddenZero (hd.idleHidden hidle)]
    exact inv_accept hd hidle (launchOk_launchOf p i _)
  | illegal v hv hidle => exact inv_accept hd hidle (launchOk_illegal _ hv)
  | kept h => exact inv_of_engineKept hs h

/-! ### The chain of a running DERIVE -/

theorem password_congr {s' s : State} (h : SameData s' s) : password s' = password s := by
  rw [password, password, mnemonic, mnemonic, h.mnem, h.mnemLen]

theorem firstMessage_congr {s' s : State} (h : SameData s' s) : firstMessage s' = firstMessage s := by
  rw [firstMessage, firstMessage, salt, salt, passphrase, passphrase, h.pass, h.passLen]

theorem chainInv_of_engineKept {p : Platform} {s' s : State} (hs : Inv s) (hc : ChainInv p s) (h : EngineKept s' s) :
    ChainInv p s' := by
  have hdata (hpend : s'.pend = .derive) : s.pend = .derive ∧ SameData s' s := by
    have hrun : s.pend = .derive := h.pend ▸ hpend
    exact ⟨hrun, h.data (busy_of_pend hs (by simp [hrun]))⟩
  refine ⟨fun hpend => ?_, fun hpend hiter => ?_, h.iter ▸ hc.bound⟩ <;> obtain ⟨hrun, hsame⟩ := hdata hpend <;>
    rw [password_congr hsame, firstMessage_congr hsame, h.iter]
  · exact h.t.trans (hc.t hrun)
  · exact h.u.trans (hc.u hrun (h.iter ▸ hiter))

/-- A state in which no DERIVE runs has no chain to speak of. -/
theorem chainInv_of_pend_ne {p : Platform} {s : State} (hpend : s.pend ≠ .derive) (hbound : s.iter.toNat ≤ 2048) :
    ChainInv p s := ⟨(absurd · hpend), (absurd · hpend), hbound⟩

/-- The answer to call `ITER + 1` is the next one of the chain (44_seed.md R184). -/
theorem hmac512_hmacRequest {p : Platform} {s : State} (hc : ChainInv p s) (hpend : s.pend = .derive) :
    p.hmac512 (hmacRequest s).1 (hmacRequest s).2 = chainU p (password s) (firstMessage s) s.iter.toNat := by
  by_cases hiter : s.iter = 0
  · rw [hmacRequest, if_pos hiter, hiter]
    rfl
  · have hpos : s.iter.toNat = s.iter.toNat - 1 + 1 := by bv_omega
    rw [hmacRequest, if_neg hiter, hpos, chainU, ← hc.u hpend hiter]

theorem chainInv_iterate {p : Platform} {s : State} (hc : ChainInv p s) (h : iterateEnabled s = true) :
    ChainInv p (iterate p s) := by
  obtain ⟨-, hpend, hiter, -⟩ := (iterateEnabled_iff s).1 h
  have hnext := iterate_iter_toNat p hiter
  have hanswer := hmac512_hmacRequest hc hpend
  have hkey : password (iterate p s) = password s := rfl
  have hmsg : firstMessage (iterate p s) = firstMessage s := rfl
  refine ⟨fun _ => ?_, fun _ _ => ?_, hnext.trans_le hiter⟩ <;> rw [hnext, hkey, hmsg]
  · rw [iterate_t, hanswer, hc.t hpend, chainT]
  · rw [iterate_u, hanswer, Nat.add_sub_cancel]

theorem complete_pend (s : State) : (complete s).pend = .none := by
  unfold complete
  cases h : s.pend with
  | none => exact h
  | ok | fail | derive => rfl

theorem complete_iter (s : State) : (complete s).iter = s.iter := by
  unfold complete
  cases s.pend <;> rfl

theorem chainInv_engineStep {p : Platform} {s : State} (hc : ChainInv p s) : ChainInv p (engineStep p s) := by
  rcases engineStep_cases p s with ⟨hiterate, e⟩ | ⟨-, -, e⟩ | ⟨-, -, e⟩ <;> rw [e]
  · exact chainInv_iterate hc hiterate
  · exact chainInv_of_pend_ne (by simp [complete_pend]) (complete_iter s ▸ hc.bound)
  · exact hc

/-- No call is made at accept: T is zero where a DERIVE starts (44_seed.md R184). -/
theorem chainInv_accept (p : Platform) {s : State} (h : HiddenZero s) (v : Word) (l : Launch) :
    ChainInv p (accept s v l) := ⟨fun _ => h.t, fun _ hiter => absurd rfl hiter, Nat.zero_le _⟩

/-- Settles O55: an iterate step takes the chain one call further, and every other step keeps it or ends it. -/
theorem everyStepKeepsTheChain : Obligations.EveryStepKeepsTheChain := by
  intro p s s' hs hc hstep
  have hd : Inv (dequeued s) := inv_of_engineKept hs (engineKept_dequeued s)
  cases stepTo_of_stepOn hstep with
  | engine => exact chainInv_engineStep (chainInv_of_engineKept hs hc (engineKept_dequeued s))
  | reset => exact chainInv_of_pend_ne nofun (Nat.zero_le _)
  | command i hidle =>
    rw [acceptBase_of_hiddenZero (hd.idleHidden hidle)]
    exact chainInv_accept p (hd.idleHidden hidle) _ _
  | illegal v hv hidle => exact chainInv_accept p (hd.idleHidden hidle) v _
  | kept h => exact chainInv_of_engineKept hs hc h

/-! ### Phase, SEED and the buffers -/

theorem complete_phase_of_enabled {s : State} (h : completeEnabled s = true) : (complete s).phase = .idle := by
  unfold complete
  cases hp : s.pend with
  | none => simp [completeEnabled, hp] at h
  | ok | fail | derive => rfl

/-- What a turn of the engine does to the phase: it ends a command by a complete step alone (10_state.md R49). -/
theorem engineStep_phase_cases (p : Platform) (s : State) :
    (completeEnabled s = true ∧ (engineStep p s).phase = .idle) ∨ (engineStep p s).phase = s.phase := by
  rcases engineStep_cases p s with ⟨-, e⟩ | ⟨-, hcomplete, e⟩ | ⟨-, -, e⟩ <;> rw [e]
  · exact .inr rfl
  · exact .inl ⟨hcomplete, complete_phase_of_enabled hcomplete⟩
  · exact .inr rfl

/-- Settles O56: of the things a step can do an accept step alone leaves IDLE, and a complete step or reset alone leaves
BUSY. -/
theorem phaseTransitions : Obligations.PhaseTransitions := by
  intro p s s' hstep
  cases stepTo_of_stepOn hstep with
  | engine hin =>
    refine ⟨fun hidle hbusy => ?_, fun hbusy hidle => .inr ?_⟩
    · rw [engineStep_of_idle (s := dequeued s) hidle] at hbusy
      exact absurd (hidle.symm.trans hbusy) nofun
    · rcases engineStep_phase_cases p (dequeued s) with ⟨hcomplete, -⟩ | hsame
      · exact ⟨hcomplete, hin⟩
      · exact absurd (hidle.symm.trans (hsame.trans hbusy)) nofun
  | reset hin => exact ⟨nofun, fun _ _ => .inl hin⟩
  | command i _ hin => exact ⟨fun _ _ => ⟨_, hin.choose, hin.choose_spec, rfl⟩, nofun⟩
  | illegal v _ _ hin => exact ⟨fun _ _ => ⟨v, hin.choose, hin.choose_spec, rfl⟩, nofun⟩
  | kept h =>
    refine ⟨fun hidle hbusy => ?_, fun hbusy hidle => ?_⟩
    · exact absurd (hidle.symm.trans (h.phase.symm.trans hbusy)) nofun
    · exact absurd (hbusy.symm.trans (h.phase.symm.trans hidle)) nofun

/-- Settles O57: from BUSY to BUSY a step is an iterate step, an idle turn or an event that leaves the engine alone. -/
theorem noPartialResults : Obligations.NoPartialResults := by
  intro p s s' hbusy hstep hbusy'
  cases stepTo_of_stepOn hstep with
  | engine =>
    rcases engineStep_cases p (dequeued s) with ⟨-, e⟩ | ⟨-, hcomplete, e⟩ | ⟨-, -, e⟩ <;> rw [e] at hbusy' ⊢
    · exact ⟨⟨rfl, rfl, rfl, rfl, rfl, rfl, rfl, rfl, rfl, rfl⟩, rfl, rfl, rfl⟩
    · exact absurd (hbusy'.symm.trans (complete_phase_of_enabled hcomplete)) nofun
    · exact ⟨⟨rfl, rfl, rfl, rfl, rfl, rfl, rfl, rfl, rfl, rfl⟩, rfl, rfl, rfl⟩
  | reset => cases hbusy'
  | command i hidle => exact absurd (hbusy.symm.trans hidle) nofun
  | illegal v hv hidle => exact absurd (hbusy.symm.trans hidle) nofun
  | kept h => exact ⟨h.data hbusy, h.cmdw, h.op, h.pend⟩

/-- A complete step leaves SEED as it is unless the command has it among its outputs (10_state.md R45). -/
theorem complete_seed_cases {s : State} (hs : Inv s) :
    (complete s).seed = s.seed ∨ s.cmdw = encode .derive ∨ s.cmdw = encode .clear := by
  rcases zeroOutputsOf_seed s.cmdw with hnone | hcmdw
  · unfold complete
    cases hpend : s.pend with
    | none => exact .inl rfl
    | ok w =>
      have hw := seed_eq_none_of_within (hs.pendWithin w hpend) hnone
      exact .inl (by simp [completeOk, hw])
    | fail r => exact .inl (by simp [completeFail, hnone])
    | derive => exact .inr (.inl (hs.deriveRuns hpend).1)
  · exact .inr hcmdw

/-- Settles O58: of the things a step can do a reset and a complete step alone touch SEED, and the latter for a command
that has it among its outputs. -/
theorem seedIsWrittenByDeriveClearReset : Obligations.SeedIsWrittenByDeriveClearReset := by
  intro p s s' hs hstep hseed
  have hd : Inv (dequeued s) := inv_of_engineKept hs (engineKept_dequeued s)
  cases stepTo_of_stepOn hstep with
  | engine =>
    rcases engineStep_cases p (dequeued s) with ⟨-, e⟩ | ⟨-, hcomplete, e⟩ | ⟨-, -, e⟩ <;> rw [e] at hseed ⊢
    · exact absurd rfl hseed
    · exact .inr ⟨hcomplete, complete_phase_of_enabled hcomplete, (complete_seed_cases hd).resolve_left hseed⟩
    · exact absurd rfl hseed
  | reset hin => exact .inl hin
  | command i => exact absurd (sameData_acceptBase i (dequeued s)).seed hseed
  | illegal v => exact absurd rfl hseed
  | kept h => exact absurd h.seed hseed

end Sys2Proof.Machine
end

section
/-! PROOFS. The register space as the host reads and writes it: the derived registers, the plain registers and the words
of the buffers (10_state.md R32 to R47, 20_memory.md R66, 70_reset_and_hazards.md R246, R247, R249). -/

namespace Sys2Proof.Machine

/-! ### Derived registers -/

theorem langIdWord_toNat (s : State) :
    (langIdWord s).toNat = (resolveLid s.lang).val + 256 * (if resolveMatch s.lang then 1 else 0) := by
  have hlid := (resolveLid s.lang).isLt
  have hmod : (resolveLid s.lang).val % 8 = (resolveLid s.lang).val := by omega
  simp only [langIdWord, toNat_append_eq_add, BitVec.toNat_ofBool, BitVec.toNat_ofNat]
  split_ifs with hmatch <;> simp [hmatch, hmod, Nat.add_comm]

theorem zext32_toNat {n : Nat} (v : BitVec n) (h : n ≤ 32) : (zext32 v).toNat = v.toNat :=
  BitVec.toNat_setWidth_of_le h

theorem csBitsWord_toNat (s : State) :
    (csBitsWord s).toNat = if s.entLen.toNat ∈ [16, 20, 24, 28, 32] then s.entLen.toNat / 4 else 0 := by
  simp only [csBitsWord, validLen_iff, csWidth]
  split_ifs
  · exact Nat.mod_eq_of_lt (by omega)
  · rfl

/-- Settles O14: each derived register is its own word, read in any state. -/
theorem derivedRegisters : Obligations.DerivedRegisters := by
  intro p s
  exact ⟨langIdWord_toNat s, zext32_toNat _ (by decide), rfl, rfl, by rfl, by rfl, by rfl, by rfl, by rfl, by rfl,
    by rfl, by rfl, csBitsWord_toNat s⟩

/-! ### Words of a buffer -/

/-- The word of four lanes as a number, a lane past the end being 0 (20_memory.md R66). -/
theorem wordAt_toNat_getD {n : Nat} (buf : Vector Byte n) (w : Nat) :
    (wordAt buf w).toNat =
      (buf[4 * w]?.getD 0).toNat + 2 ^ 8 * (buf[4 * w + 1]?.getD 0).toNat +
        2 ^ 16 * (buf[4 * w + 2]?.getD 0).toNat + 2 ^ 24 * (buf[4 * w + 3]?.getD 0).toNat := by
  simp only [wordAt, toNat_append_eq_add]
  omega

/-- A word of a buffer reads back as it was written (70_reset_and_hazards.md R249). -/
theorem wordAt_setWordAt {n : Nat} (buf : Vector Byte n) {w : Nat} (h : 4 * w + 3 < n) (v : Word) :
    wordAt (setWordAt buf w v) w = v := by
  have hdiv : (4 * w) / 4 = w ∧ (4 * w + 1) / 4 = w ∧ (4 * w + 2) / 4 = w ∧ (4 * w + 3) / 4 = w := by omega
  have hmod : (4 * w) % 4 = 0 ∧ (4 * w + 1) % 4 = 1 ∧ (4 * w + 2) % 4 = 2 ∧ (4 * w + 3) % 4 = 3 := by omega
  have hv := v.isLt
  apply BitVec.eq_of_toNat_eq
  rw [wordAt_toNat _ w h]
  simp only [setWordAt_getElem, hdiv, hmod, if_true, BitVec.extractLsb'_toNat, Nat.shiftRight_eq_div_pow]
  omega

section
variable {s : State} (h : s.phase = .idle) (p : Platform)
include h

theorem readAt_ent {w : Nat} (hw : w < 8) : readAt p s (0x040 + 4 * w) = wordAt s.ent w := by
  rw [readAt, slotOf_ent w hw, readSlot, masked_of_idle h]

theorem readAt_seed {w : Nat} (hw : w < 16) : readAt p s (0x100 + 4 * w) = wordAt s.seed w := by
  rw [readAt, slotOf_seed w hw, readSlot, masked_of_idle h]

theorem readAt_pass {w : Nat} (hw : w < 64) : readAt p s (0x200 + 4 * w) = wordAt s.pass w := by
  rw [readAt, slotOf_pass w hw, readSlot, masked_of_idle h]

theorem readAt_mnem {w : Nat} (hw : w < 256) : readAt p s (0x400 + 4 * w) = wordAt s.mnem w := by
  rw [readAt, slotOf_mnem w hw, readSlot, masked_of_idle h]

theorem readAt_idx {i : Nat} (hi : i < 24) : readAt p s (0x080 + 4 * i) = s.idx[i] := by
  rw [readAt, slotOf_idx i hi, readSlot, masked_of_idle h, Vector.getElem?_eq_getElem hi, Option.getD_some]

end

/-- While BUSY no word of SEED shows what the buffer holds (70_reset_and_hazards.md R247). -/
theorem readAt_seed_of_busy {s : State} (h : s.phase = .busy) (p : Platform) {w : Nat} (hw : w < 16) :
    readAt p s (0x100 + 4 * w) = 0 := by
  rw [readAt, slotOf_seed w hw, readSlot, masked_of_busy h]

/-- Settles O47: while IDLE a buffer word is its lanes, while BUSY every one is masked, and the rest is read as it
stands. -/
theorem bufferReads : Obligations.BufferReads := by
  intro p s
  refine ⟨fun hidle => ⟨fun w hw => ?_, fun w hw => ?_, fun w hw => ?_, fun w hw => ?_, fun i hi => ?_⟩,
    fun hbusy => ⟨fun w hw => ?_, fun w hw => ?_, fun w hw => ?_, fun w hw => ?_, fun i hi => ?_⟩,
    rfl, rfl, rfl, rfl, rfl, zext32_toNat _ (by decide), rfl⟩
  · rw [readAt_ent hidle p hw, wordAt_toNat_getD]
  · rw [readAt_seed hidle p hw, wordAt_toNat_getD]
  · rw [readAt_pass hidle p hw, wordAt_toNat_getD]
  · rw [readAt_mnem hidle p hw, wordAt_toNat_getD]
  · exact readAt_idx hidle p hi
  · rw [readAt, slotOf_ent w hw, readSlot, masked_of_busy hbusy]
  · exact readAt_seed_of_busy hbusy p hw
  · rw [readAt, slotOf_pass w hw, readSlot, masked_of_busy hbusy]
  · rw [readAt, slotOf_mnem w hw, readSlot, masked_of_busy hbusy]
  · rw [readAt, slotOf_idx i hi, readSlot, masked_of_busy hbusy]

/-! ### Writes while IDLE -/

section
variable {s : State} (h : s.phase = .idle) (v : Word)
include h

theorem writeAt_ent {w : Nat} (hw : w < 8) : writeAt s (0x040 + 4 * w) v = { s with ent := setWordAt s.ent w v } := by
  rw [writeAt, slotOf_ent w hw, writeSlot, guardedWrite_of_idle h]

theorem writeAt_pass {w : Nat} (hw : w < 64) :
    writeAt s (0x200 + 4 * w) v = { s with pass := setWordAt s.pass w v } := by
  rw [writeAt, slotOf_pass w hw, writeSlot, guardedWrite_of_idle h]

theorem writeAt_mnem {w : Nat} (hw : w < 256) :
    writeAt s (0x400 + 4 * w) v = { s with mnem := setWordAt s.mnem w v } := by
  rw [writeAt, slotOf_mnem w hw, writeSlot, guardedWrite_of_idle h]

theorem writeAt_idx {i : Nat} (hi : i < 24) :
    writeAt s (0x080 + 4 * i) v = { s with idx := s.idx.setIfInBounds i v } := by
  rw [writeAt, slotOf_idx i hi, writeSlot, guardedWrite_of_idle h]

/-- The five registers the host may write while IDLE (10_state.md R32, R36, R38 to R40). -/
theorem writeAt_plain :
    writeAt s 0x010 v = { s with lang := v } ∧ writeAt s 0x020 v = { s with entLen := v } ∧
    writeAt s 0x028 v = { s with wordCnt := v } ∧ writeAt s 0x02C v = { s with mnemLen := v } ∧
    writeAt s 0x030 v = { s with passLen := v } :=
  ⟨guardedWrite_of_idle h _, guardedWrite_of_idle h _, guardedWrite_of_idle h _, guardedWrite_of_idle h _,
    guardedWrite_of_idle h _⟩

end

/-- Settles O48: what a word or an entry holds after a write, and the frame. -/
theorem bufferWrites : Obligations.BufferWrites := by
  intro s v hidle
  refine ⟨fun w hw => ⟨_, writeAt_ent hidle v hw, setWordAt_getElem _ w v⟩,
    fun w hw => ⟨_, writeAt_pass hidle v hw, setWordAt_getElem _ w v⟩,
    fun w hw => ⟨_, writeAt_mnem hidle v hw, setWordAt_getElem _ w v⟩,
    fun i hi => ⟨_, writeAt_idx hidle v hi, fun k hk => ?_⟩, writeAt_plain hidle v⟩
  simp only [Vector.getElem_setIfInBounds, eq_comm]

/-- Settles O49: the offset names a register, a word or an entry, and that is what the read finds. -/
theorem writeThenRead : Obligations.WriteThenRead := by
  intro p s off v hidle hword hoff
  have hidle' : (writeAt s off v).phase = .idle := (engineKept_writeAt s off v).phase.trans hidle
  rcases hoff with hreg | ⟨hge, hlt⟩ | ⟨hge, hlt⟩ | ⟨hge, hlt⟩ | ⟨hge, hlt⟩
  · obtain ⟨hlang, hent, hcnt, hmnem, hpass⟩ := writeAt_plain hidle v
    simp only [List.mem_cons, List.not_mem_nil, or_false] at hreg
    rcases hreg with rfl | rfl | rfl | rfl | rfl
    · rw [hlang]; rfl
    · rw [hent]; rfl
    · rw [hcnt]; rfl
    · rw [hmnem]; rfl
    · rw [hpass]; rfl
  · obtain ⟨w, rfl⟩ : ∃ w, off = 0x040 + 4 * w := ⟨(off - 0x040) / 4, by omega⟩
    have hw : w < 8 := by omega
    rw [readAt_ent hidle' p hw, writeAt_ent hidle v hw]
    exact wordAt_setWordAt _ (show 4 * w + 3 < 32 by omega) v
  · obtain ⟨i, rfl⟩ : ∃ i, off = 0x080 + 4 * i := ⟨(off - 0x080) / 4, by omega⟩
    have hi : i < 24 := by omega
    rw [readAt_idx hidle' p hi]
    simp only [writeAt_idx hidle v hi, Vector.getElem_setIfInBounds_self]
  · obtain ⟨w, rfl⟩ : ∃ w, off = 0x200 + 4 * w := ⟨(off - 0x200) / 4, by omega⟩
    have hw : w < 64 := by omega
    rw [readAt_pass hidle' p hw, writeAt_pass hidle v hw]
    exact wordAt_setWordAt _ (show 4 * w + 3 < 256 by omega) v
  · obtain ⟨w, rfl⟩ : ∃ w, off = 0x400 + 4 * w := ⟨(off - 0x400) / 4, by omega⟩
    have hw : w < 256 := by omega
    rw [readAt_mnem hidle' p hw, writeAt_mnem hidle v hw]
    exact wordAt_setWordAt _ (show 4 * w + 3 < 1024 by omega) v

/-! ### Writes while BUSY -/

theorem writeSlot_of_guarded {s : State} (h : s.phase = .busy) {slot : Slot} (hslot : slot.guarded = true)
    (hcmd : slot ≠ .cmd) (v : Word) : writeSlot s v slot = dropWrite s := by
  cases slot <;> simp [Slot.guarded, writeSlot, guardedWrite_of_busy h] at hslot hcmd ⊢

/-- Settles O50: a protected offset drops the write, and STATUS and CTRL take it. -/
theorem writesWhileBusy : Obligations.WritesWhileBusy := by
  intro s off v hbusy _ hrange
  refine ⟨fun hoff => ?_, fun h => h ▸ rfl, fun h => h ▸ rfl⟩
  have hguarded : (slotOf off).guarded = true :=
    (slotOf_guarded_iff hrange).2 (hoff.imp_left (List.mem_cons_of_mem _))
  have hcmd : slotOf off ≠ .cmd := by
    rw [Ne, slotOf_eq_cmd]
    rintro rfl
    simp at hoff
  exact writeSlot_of_guarded hbusy hguarded hcmd v

/-! ### The ROM image -/

/-- The bytes of an entry of the ROM image (20_memory.md R75). -/
theorem romImageByte_entry (p : Platform) (l : LangId) (i : Fin 2048) {k : Nat} (hk : k < 32) :
    romImageByte p (65536 * l.val + 32 * i.val + k) = romEntryByte (p.rom l i).bytes k := by
  have hl := l.isLt
  have hi := i.isLt
  have hlang : (65536 * l.val + 32 * i.val + k) / 65536 = l.val := by omega
  have hindex : (65536 * l.val + 32 * i.val + k) % 65536 / 32 = i.val := by omega
  have hbyte : (65536 * l.val + 32 * i.val + k) % 32 = k := by omega
  simp only [romImageByte, hlang, hindex, hbyte, hl, dif_pos, Config.nLang, word_of_lt p _ _ hi]

theorem romEntryByte_zero {w : Bytes} (h : w.length ≤ 31) : (romEntryByte w 0).toNat = w.length :=
  Nat.mod_eq_of_lt (by omega)

theorem romEntryByte_succ (w : Bytes) (k : Nat) : romEntryByte w (k + 1) = w[k]?.getD 0 := rfl

/-- Settles O17: the length byte says how many of the bytes after it are the word's. -/
theorem romImageHoldsTheWords : Obligations.RomImageHoldsTheWords := by
  intro p l i
  obtain ⟨-, hlen, -⟩ := romWord_ok (p.rom l i)
  have hfirst : (romImageByte p (65536 * l.val + 32 * i.val)).toNat = (p.rom l i).bytes.length := by
    exact (congrArg BitVec.toNat (romImageByte_entry p l i (k := 0) (by decide))).trans (romEntryByte_zero hlen)
  refine ⟨List.ext_getElem ?_ fun k _ hk => ?_, hfirst, fun k hlow hhigh => ?_⟩
  · simp [wordOfImage, hfirst]
  · have hbyte := romImageByte_entry p l i (k := k + 1) (by omega)
    rw [romEntryByte_succ, List.getElem?_eq_getElem hk, Option.getD_some] at hbyte
    simp only [wordOfImage, List.getElem_map, List.getElem_range, Nat.add_assoc, Nat.add_comm 1 k]
    rw [← Nat.add_assoc]
    exact hbyte
  · obtain ⟨k, rfl⟩ := Nat.exists_eq_add_of_lt hlow
    rw [romImageByte_entry p l i hhigh, romEntryByte_succ, List.getElem?_eq_none (Nat.le_add_right _ _),
      Option.getD_none]

end Sys2Proof.Machine
end

section
/-! PROOFS. The bit-packer's numbers: what of the checksum byte reaches an index, and the one index list of each entropy
value (41_checksum.md R134, 42_bitpacker.md R148). -/

namespace Sys2Proof.Machine

/-- The top `c` bits of a byte determine its bits down to position `c - 1` of the stream (00_scope.md R11). -/
theorem div_mod_two_eq_of_top_eq {d d' c m : Nat} (h : d / 2 ^ (8 - c) = d' / 2 ^ (8 - c)) (hm : m < c) (hc : c ≤ 8) :
    d / 2 ^ (7 - m) % 2 = d' / 2 ^ (7 - m) % 2 := by
  have hsplit : 7 - m = 8 - c + (c - 1 - m) := by omega
  rw [hsplit, pow_add, ← Nat.div_div_eq_div_mul, ← Nat.div_div_eq_div_mul, h]

/-- The stream of the working buffer as far as the indices go sees the top `c` bits of the checksum byte only
(41_checksum.md R134). -/
theorem bit_append_eq_of_top_eq {e : Bytes} {d d' : Byte} {c j : Nat} (hc : c ≤ 8)
    (h : d.toNat / 2 ^ (8 - c) = d'.toNat / 2 ^ (8 - c)) (hj : j < 8 * e.length + c) :
    bit (e ++ [d]) j = bit (e ++ [d']) j := by
  rcases Nat.lt_or_ge j (8 * e.length) with hlow | hhigh
  · rw [bit, bit, List.getElem?_append_left (by omega), List.getElem?_append_left (by omega)]
  · obtain ⟨m, rfl⟩ := Nat.exists_eq_add_of_le hhigh
    rw [bit_byte _ _ (by omega), bit_byte _ _ (by omega)]
    simpa using div_mod_two_eq_of_top_eq h (by omega) hc

/-- Settles O20: the groups end where the top `c` bits of the checksum byte do. -/
theorem lowDigestBitsReachNoIndex : Obligations.LowDigestBitsReachNoIndex := by
  intro e d d' i hlen htop hi
  have hstream : 11 * (3 * e.length / 4) = 8 * e.length + e.length / 4 ∧ e.length / 4 ≤ 8 := by
    simp only [List.mem_cons, List.not_mem_nil, or_false] at hlen
    omega
  exact msbNat_congr _ _ 11 fun k hk => bit_append_eq_of_top_eq hstream.2 htop (by omega)

/-- Settles O39: the list is the packed one, and a list with the right checksum is what packing its entropy gives. -/
theorem oneIndexListPerEntropy : Obligations.OneIndexListPerEntropy := by
  intro p n e hn hlen
  have he : e.length ∈ [16, 20, 24, 28, 32] := hlen ▸ entLenOfWords_mem hn
  have hwords : numWords e.length = n := by
    rw [hlen]
    exact numWords_entLenOfWords hn
  refine ⟨packIndices p e, ⟨(length_packIndices p e).trans hwords, fun _ => packIndices_lt,
    splitEntropy_packIndices he, ?_⟩, fun xs hxs => ?_⟩
  · rw [splitChecksum_packIndices he, hwords]
    rfl
  · obtain ⟨rfl, hbound, rfl, hcs⟩ := hxs
    exact (packIndices_splitEntropy hn hbound hcs).symm

end Sys2Proof.Machine
end

section
/-! PROOFS. The results of the commands: what is asked of the SHA256 unit and the state after the complete step
(40_wordlist_rom.md, 41_checksum.md, 42_bitpacker.md, 43_codec.md, 45_housekeeping.md). -/

namespace Sys2Proof.Machine

/-! ### From accept to complete -/

section
variable {s : State} (hidle : s.phase = .idle) {p : Platform} {i : Instr} {body : Except Raise Writes}
  (hpend : (launchOf p i s).pend = .ofBody body)
include hidle hpend

/-- A command whose body succeeds commits its writes at the next turn, once the digest it asked for is there. -/
theorem execOn_of_body_ok {w : Writes} (hbody : body = .ok w) :
    ∃ t, execOn p i s = .next t ∧ t.shaReq = (launchOf p i s).shaReq ∧
      ((launchOf p i s).shaReq = none ∨ s.shaUp = true →
        engineStep p t = commit (completed s (opcode i) none) w) := by
  subst hbody
  exact ⟨_, execOn_of_idle hidle p i, rfl, fun hsha => engineStep_accept_ok hsha p i w hpend⟩

/-- A command whose body fails zeroes its outputs at the next turn, once the digest it asked for is there. -/
theorem execOn_of_body_error {r : Raise} (hbody : body = .error r) :
    ∃ t, execOn p i s = .next t ∧ t.shaReq = (launchOf p i s).shaReq ∧
      ((launchOf p i s).shaReq = none ∨ s.shaUp = true → engineStep p t = failed s i r) := by
  subst hbody
  exact ⟨_, execOn_of_idle hidle p i, rfl, fun hsha => engineStep_accept_fail hsha p i r hpend⟩

/-- A test that fails before any request needs no unit (41_checksum.md R130). -/
theorem execOn_of_body_error_without_request {r : Raise} (hbody : body = .error r)
    (hreq : (launchOf p i s).shaReq = none) :
    ∃ t, execOn p i s = .next t ∧ t.shaReq = none ∧ engineStep p t = failed s i r := by
  obtain ⟨t, ht, hsha, hstep⟩ := execOn_of_body_error hidle hpend hbody
  exact ⟨t, ht, hsha.trans hreq, hstep (.inl hreq)⟩

end

/-! ### What buffers hold after a command wrote them -/

theorem padVec_getElem {α : Type} (n : Nat) (z : α) (xs : List α) (k : Nat) (h : k < n) :
    (padVec n z xs)[k] = xs[k]?.getD z := by
  have hget : (padVec n z xs)[k] = ((xs ++ List.replicate n z).take n)[k]'(by simp; omega) := rfl
  rw [hget, List.getElem_take]
  rcases Nat.lt_or_ge k xs.length with hk | hk
  · rw [List.getElem_append_left hk, List.getElem?_eq_getElem hk, Option.getD_some]
  · rw [List.getElem_append_right hk, List.getElem_replicate, List.getElem?_eq_none hk, Option.getD_none]

theorem padVec_toList_eq_take {α : Type} (n : Nat) (z : α) (xs : List α) :
    (padVec n z xs).toList = xs.take n ++ List.replicate (n - xs.length) z := by
  rw [padVec_toList, List.take_append, List.take_replicate, Nat.min_eq_left (Nat.sub_le ..)]

/-- IDX after an index list was written (10_state.md R44). -/
theorem idxVec_getElem_toNat {xs : List Nat} (hbound : ∀ x ∈ xs, x < 2048) (k : Nat) (h : k < 24) :
    (idxVec xs)[k].toNat = xs[k]?.getD 0 := by
  have hk : (idxVec xs)[k] = BitVec.ofNat 32 (xs[k]?.getD 0) := by
    rw [idxVec, padVec_getElem _ _ _ _ h, List.getElem?_map]
    cases xs[k]? <;> rfl
  rw [hk, toNat_ofNat_of_le (getD_index_lt hbound k).le]

/-! ### The indices the host wrote -/

theorem length_indices_eq_min (s : State) : (indices s).length = min s.wordCnt.toNat 24 := by simp [indices]

theorem indices_getElem {s : State} {k : Nat} (h : k < 24) (hk : k < (indices s).length) :
    (indices s)[k] = s.idx[k].toNat := by
  simp [indices]

theorem forall_mem_indices {s : State} (h : ∀ k (hk : k < 24), k < s.wordCnt.toNat → s.idx[k].toNat < 2048) :
    ∀ x ∈ indices s, x < 2048 := by
  intro x hx
  obtain ⟨k, hk, rfl⟩ := List.getElem_of_mem hx
  have hlen := length_indices_eq_min s
  rw [indices_getElem (by omega)]
  exact h k (by omega) (by omega)

/-- The smallest entry of 2048 or more is the one BadIndex names (60_exceptions.md R211). -/
theorem firstBadIndex_indices {s : State} {k : Nat} (hk : k < 24) (hcnt : k < s.wordCnt.toNat)
    (hbad : 2048 ≤ s.idx[k].toNat) (hmin : ∀ j (hj : j < 24), j < k → s.idx[j].toNat < 2048) :
    firstBadIndex (indices s) = some k := by
  have hlen : k < (indices s).length := by
    rw [length_indices_eq_min]
    omega
  refine List.findIdx?_eq_some_iff_getElem.2 ⟨hlen, ?_, fun j hj => ?_⟩
  · simpa [indices_getElem hk] using hbad
  · simpa [indices_getElem (hj.trans hk)] using hmin j (hj.trans hk) hj

/-! ### PACK and UNPACK -/

theorem packRequest_of_valid {s : State} (h : s.entLen.toNat ∈ [16, 20, 24, 28, 32]) :
    packRequest s = some (entropy s) := if_pos ((validLen_iff _).2 h)

theorem packRequest_of_invalid {s : State} (h : s.entLen.toNat ∉ [16, 20, 24, 28, 32]) : packRequest s = none :=
  if_neg (mt (validLen_iff _).1 h)

/-- The packed indices and their count for the length register's value (42_bitpacker.md R143). -/
theorem packIndices_of_valid (p : Platform) {s : State} (h : s.entLen.toNat ∈ [16, 20, 24, 28, 32]) :
    packIndices p (entropy s) =
      (List.range (3 * s.entLen.toNat / 4)).map (group (workingBuffer p (entropy s))) := by
  rw [packIndices, length_entropy h, numWords]

theorem commit_indexWrites (s : State) (xs : List Nat) :
    commit s (indexWrites xs) = { s with idx := idxVec xs, wordCnt := BitVec.ofNat 32 xs.length } := rfl

/-- Settles O21: the indices PACK commits are the groups of the working buffer. -/
theorem packResultObligation : Obligations.PackResult := by
  intro s hidle hsha hlen len e w
  obtain ⟨t, ht, hreq, hstep⟩ := execOn_of_body_ok hidle (p := Config.platform) (i := .pack) rfl
    ((packBody_eq_ok_iff _ s _).2 ⟨hlen, rfl⟩)
  have hxs := packIndices_of_valid Config.platform hlen
  refine ⟨t, idxVec (packIndices Config.platform (entropy s)), (exec_eq_execOn _ s).trans ht,
    hreq.trans (packRequest_of_valid hlen), ?_, fun i hi => ?_⟩
  · rw [hstep (.inr hsha), commit_indexWrites, hxs, List.length_map, List.length_range]
    rfl
  · rw [idxVec_getElem_toNat (fun _ => packIndices_lt), hxs, List.getElem?_map]
    split_ifs with hlt
    · rw [List.getElem?_range hlt]
      exact group_eq_sum w i
    · rw [List.getElem?_eq_none (by simpa using hlt)]
      rfl

/-- The hardware's ROM is 11 bits wide in every language (00_scope.md R7). -/
theorem platform_width (s : State) : (Config.platform.romBits (resolveLid s.lang)).toNat = 11 := rfl

theorem encodeBody_of_invalid_length {p : Platform} {s : State} (hwidth : (p.romBits (resolveLid s.lang)).toNat = 11)
    (h : s.entLen.toNat ∉ [16, 20, 24, 28, 32]) : encodeBody p s = .error ⟨.invalidEntropyLength, s.entLen⟩ := by
  rw [encodeBody, checkWordlist_of_width hwidth, packResult, if_neg (mt (validLen_iff _).1 h)]

theorem encodeRequest_of_invalid_length (p : Platform) {s : State} (h : s.entLen.toNat ∉ [16, 20, 24, 28, 32]) :
    encodeRequest p s = none := by
  rw [encodeRequest, packRequest_of_invalid h]
  cases checkWordlist p s <;> rfl

/-- Settles O22: both commands test the length before they ask for a digest. -/
theorem invalidEntropyLengthFails : Obligations.InvalidEntropyLengthFails := by
  intro s i hi hidle hlen
  simp only [exec_eq_execOn]
  simp only [List.mem_cons, List.not_mem_nil, or_false] at hi
  rcases hi with rfl | rfl
  · exact execOn_of_body_error_without_request hidle rfl (packBody_of_invalid_length _ hlen)
      (packRequest_of_invalid hlen)
  · exact execOn_of_body_error_without_request hidle rfl (encodeBody_of_invalid_length (platform_width s) hlen)
      (encodeRequest_of_invalid_length Config.platform hlen)

theorem unpackRequest_of_ok {s : State} {xs : List Nat} (h : unpackIndices s = .ok xs) :
    unpackRequest s = some (splitEntropy xs) := by rw [unpackRequest, h]

theorem unpackRequest_of_error {s : State} {r : Raise} (h : unpackIndices s = .error r) : unpackRequest s = none := by
  rw [unpackRequest, h]

theorem unpackBody_of_error (p : Platform) {s : State} {r : Raise} (h : unpackIndices s = .error r) :
    unpackBody p s = .error r := by rw [unpackBody, h]

theorem verified_of_mismatch {p : Platform} {xs : List Nat}
    (h : checksumOf p (splitEntropy xs) (csWidthOfWords xs.length) ≠ splitChecksum xs) :
    verified p xs = .error ⟨.checksumMismatch, 0⟩ := if_neg h

theorem unpackBody_of_mismatch {p : Platform} {s : State} {xs : List Nat} (hx : unpackIndices s = .ok xs)
    (h : checksumOf p (splitEntropy xs) (csWidthOfWords xs.length) ≠ splitChecksum xs) :
    unpackBody p s = .error ⟨.checksumMismatch, 0⟩ := by
  rw [unpackBody, hx]
  dsimp only
  rw [verified_of_mismatch h]

/-- Settles O23: the request is the entropy part, and its digest decides between the two outcomes. -/
theorem unpackResult : Obligations.UnpackResult := by
  intro s hidle hsha hcnt hidx n xs e
  have hbound : ∀ x ∈ indices s, x < 2048 := forall_mem_indices hidx
  have hx : unpackIndices s = .ok xs := (unpackIndices_eq_ok_iff s xs).2 ⟨hcnt, hbound, rfl⟩
  have hn : xs.length = n := length_indices hcnt
  have he : e.length = 4 * n / 3 := by rw [length_splitEntropy, hn, entLenOfWords]
  have hle : e.length ≤ 32 := validLen_le (length_splitEntropy_mem (by rwa [hn]))
  refine ⟨_, (exec_eq_execOn .unpack s).trans (execOn_of_idle hidle _ _), unpackRequest_of_ok hx,
    fun hcs => ⟨bytesVec 32 e, ?_, ?_⟩, fun hcs => ?_⟩
  · have hbody : unpackBody Config.platform s = .ok (entropyWrites e) :=
      (unpackBody_eq_ok_iff _ s _).2 ⟨hcnt, hbound, by rw [length_indices hcnt]; exact hcs, rfl⟩
    refine (engineStep_accept_ok (.inr hsha) Config.platform .unpack (entropyWrites e)
      (congrArg Pend.ofBody hbody)).trans ?_
    rw [← he]
    rfl
  · rw [← he]
    exact padVec_toList_of_le 32 0 e hle
  · have hbody : unpackBody Config.platform s = .error ⟨.checksumMismatch, 0⟩ :=
      unpackBody_of_mismatch hx (by rw [hn]; exact hcs)
    exact engineStep_accept_fail (.inr hsha) Config.platform .unpack ⟨.checksumMismatch, 0⟩
      (congrArg Pend.ofBody hbody)

theorem unpackIndices_of_bad_count {s : State} (h : s.wordCnt.toNat ∉ [12, 15, 18, 21, 24]) :
    unpackIndices s = .error ⟨.invalidMnemonicLength, s.wordCnt⟩ := if_neg (mt (validCnt_iff _).1 h)

theorem unpackIndices_of_bad_index {s : State} {k : Nat} (h : s.wordCnt.toNat ∈ [12, 15, 18, 21, 24])
    (hbad : firstBadIndex (indices s) = some k) : unpackIndices s = .error ⟨.badIndex, BitVec.ofNat 32 k⟩ := by
  rw [unpackIndices, if_pos ((validCnt_iff _).2 h), hbad]

theorem lookupIndices_of_big_count {s : State} (h : 24 < s.wordCnt.toNat) :
    lookupIndices s = .error ⟨.badLength, 0x028⟩ := if_pos h

theorem lookupIndices_of_bad_index {s : State} {k : Nat} (h : s.wordCnt.toNat ≤ 24)
    (hbad : firstBadIndex (indices s) = some k) : lookupIndices s = .error ⟨.badIndex, BitVec.ofNat 32 k⟩ := by
  rw [lookupIndices, if_neg (by simpa using h), hbad]

theorem lookupBody_of_error {p : Platform} {s : State} {r : Raise}
    (hwidth : (p.romBits (resolveLid s.lang)).toNat = 11) (h : lookupIndices s = .error r) :
    lookupBody p s = .error r := by rw [lookupBody, checkWordlist_of_width hwidth, h]

theorem exec_unpack_of_error {s : State} (hidle : s.phase = .idle) {r : Raise} (h : unpackIndices s = .error r) :
    ∃ t, exec .unpack s = .next t ∧ t.shaReq = none ∧ engineStep Config.platform t = failed s .unpack r := by
  rw [exec_eq_execOn]
  exact execOn_of_body_error_without_request hidle rfl (unpackBody_of_error _ h) (unpackRequest_of_error h)

theorem exec_lookup_of_error {s : State} (hidle : s.phase = .idle) {r : Raise} (h : lookupIndices s = .error r) :
    ∃ t, exec .lookup s = .next t ∧ engineStep Config.platform t = failed s .lookup r := by
  rw [exec_eq_execOn]
  obtain ⟨t, ht, -, hstep⟩ := execOn_of_body_error_without_request hidle (p := Config.platform) (i := .lookup) rfl
    (lookupBody_of_error (platform_width s) h) rfl
  exact ⟨t, ht, hstep⟩

/-- Settles O24: the count comes first, then the smallest bad entry. -/
theorem countAndIndexErrors : Obligations.CountAndIndexErrors := by
  intro s hidle
  refine ⟨fun hcnt => exec_unpack_of_error hidle (unpackIndices_of_bad_count hcnt),
    fun hcnt => exec_lookup_of_error hidle (lookupIndices_of_big_count hcnt),
    fun k hk hin hbad hmin => ?_⟩
  have hfirst := firstBadIndex_indices hk hin hbad hmin
  exact ⟨fun hcnt => exec_unpack_of_error hidle (unpackIndices_of_bad_index hcnt hfirst),
    fun hcnt => exec_lookup_of_error hidle (lookupIndices_of_bad_index hcnt hfirst)⟩

end Sys2Proof.Machine
end

section
/-! PROOFS. The results of the commands that use a wordlist: LOOKUP, SEARCH, ENCODE, DECODE, and CHECK where DECODE
fails before its request; CLEAR and the illegal word (40_wordlist_rom.md, 43_codec.md, 45_housekeeping.md). -/

namespace Sys2Proof.Machine

/-! ### Strings of words -/

/-- Words joined with one byte SEP between neighbours (30_encoding.md R97). -/
theorem intercalate_sep_eq_joinWords (ws : List Bytes) : List.intercalate [0x20] ws = joinWords ws := by
  induction ws with
  | nil => rfl
  | cons w rest ih =>
    cases rest with
    | nil => simp [joinWords]
    | cons v rest =>
      rw [List.intercalate_cons_cons, ih, List.append_assoc]
      rfl

/-- The string of at most 24 words has at most 767 bytes (40_wordlist_rom.md R116). -/
theorem length_wordString_le_767 (p : Platform) (l : LangId) {xs : List Nat} (h : xs.length ≤ 24) :
    (wordString p l xs).length ≤ 767 := by
  have hlen := joinWords_length_le (xs.map (word p l)) (by simp [word_length_le])
  rw [List.length_map] at hlen
  exact hlen.trans (by omega)

/-- Over the entries of a vector, keeping the first `n` is taking the first `n`. -/
theorem filterMap_finRange_eq_map_take {α β : Type} {m : Nat} (v : Vector α m) (n : Nat) (f : Fin m → Option β)
    (g : α → β) (hin : ∀ i : Fin m, i.val < n → f i = some (g v[i])) (hout : ∀ i : Fin m, n ≤ i.val → f i = none) :
    (List.finRange m).filterMap f = (v.toList.take n).map g := by
  have hlist : v.toList = (List.finRange m).map (fun i => v[i]) := by
    refine List.ext_getElem (by simp) fun k hk _ => ?_
    simp
  have hfront : ((List.finRange m).take n).filterMap f = ((List.finRange m).take n).map (fun i => g v[i]) := by
    rw [← List.filterMap_eq_map]
    refine List.filterMap_congr fun i hi => hin i ?_
    obtain ⟨k, hk, rfl⟩ := List.mem_take_iff_getElem.1 hi
    simp only [List.getElem_finRange]
    exact (Nat.lt_min.1 hk).1
  have hback : ((List.finRange m).drop n).filterMap f = [] := by
    refine List.filterMap_eq_nil_iff.2 fun i hi => hout i ?_
    obtain ⟨k, hk, rfl⟩ := List.mem_drop_iff_getElem.1 hi
    simp
  rw [hlist, ← List.map_take, List.map_map, ← List.take_append_drop n (List.finRange m), List.filterMap_append,
    hfront, hback, List.append_nil, List.take_append_drop]
  rfl

/-! ### LOOKUP -/

/-- Settles O25: the words LOOKUP joins are those of the entries below the count. -/
theorem lookupResult : Obligations.LookupResult := by
  intro s hidle hcnt hidx words str
  have hbound : ∀ x ∈ indices s, x < 2048 := forall_mem_indices hidx
  have hwords : words = (indices s).map (word Config.platform (resolveLid s.lang)) := by
    rw [indices, List.map_map]
    refine filterMap_finRange_eq_map_take s.idx _ _ _ (fun i hi => ?_) fun i hi => dif_neg fun h => hi.not_gt h.1
    have hlt : s.idx[i].toNat < 2048 := hidx i.val i.isLt hi
    rw [dif_pos ⟨hi, hlt⟩]
    exact congrArg some (word_of_lt Config.platform _ _ hlt).symm
  have hstr : str = wordString Config.platform (resolveLid s.lang) (indices s) := by
    rw [wordString, ← hwords]
    exact intercalate_sep_eq_joinWords words
  have hlen : (indices s).length ≤ 24 := by simp [indices]
  have hle : str.length ≤ 767 := hstr ▸ length_wordString_le_767 _ _ hlen
  have hbody : lookupBody Config.platform s = .ok (mnemonicWrites str) := by
    rw [lookupBody_of_indices _ (lookupIndices_of_indices hcnt rfl hbound), checkWordlist_of_width (platform_width s),
      hstr]
    rfl
  obtain ⟨t, ht, -, hstep⟩ := execOn_of_body_ok hidle (p := Config.platform) (i := .lookup) rfl hbody
  refine ⟨t, bytesVec 1024 str, (exec_eq_execOn _ s).trans ht, hle, hstep (.inl rfl), ?_⟩
  exact padVec_toList_of_le 1024 0 str (by omega)

/-! ### SEARCH -/

theorem searchIndices_of_found {s : State} {p : Platform} {xs : List Nat}
    (hwidth : (p.romBits (resolveLid s.lang)).toNat = 11) (hlen : s.mnemLen.toNat ≤ 1024)
    (hfound : (tokens (s.mnem.toList.take s.mnemLen.toNat)).map (findWord p (resolveLid s.lang)) = xs.map some) :
    searchIndices p s = .ok xs := (searchIndices_eq_ok_iff p s xs).2 ⟨hwidth, hlen, hfound⟩

/-- Settles O26: SEARCH commits the indices of all tokens, of which IDX holds 24. -/
theorem searchResult : Obligations.SearchResult := by
  intro s xs hidle hlen hfound
  obtain ⟨t, ht, hreq, hstep⟩ := execOn_of_body_ok hidle (p := Config.platform) (i := .search) rfl
    (searchBody_of_searchIndices_ok (searchIndices_of_found (platform_width s) hlen hfound))
  refine ⟨t, idxVec xs, (exec_eq_execOn _ s).trans ht, hreq, hstep (.inl rfl), ?_⟩
  rw [idxVec, padVec_toList_eq_take, List.length_map]

/-- An index list that fits stands in IDX as a whole, followed by zeros (10_state.md R44). -/
theorem idxVec_toList_of_le {xs : List Nat} (h : xs.length ≤ 24) :
    (idxVec xs).toList = xs.map (BitVec.ofNat 32) ++ List.replicate (24 - xs.length) 0 := by
  rw [idxVec, padVec_toList_of_le _ _ _ (by simpa using h), List.length_map]

theorem searchIndices_of_long {p : Platform} {s : State} (hwidth : (p.romBits (resolveLid s.lang)).toNat = 11)
    (hlen : 1024 < s.mnemLen.toNat) : searchIndices p s = .error ⟨.badLength, 0x02C⟩ := by
  rw [searchIndices, checkWordlist_of_width hwidth]
  exact if_pos hlen

theorem searchIndices_of_unknown {p : Platform} {s : State} (hwidth : (p.romBits (resolveLid s.lang)).toNat = 11)
    (hlen : s.mnemLen.toNat ≤ 1024) {pre post : List Bytes} {w : Bytes}
    (htokens : tokens (mnemonic s) = pre ++ w :: post) (hpre : ∀ v ∈ pre, findWord p (resolveLid s.lang) v ≠ none)
    (hw : findWord p (resolveLid s.lang) w = none) :
    searchIndices p s = .error ⟨.invalidWord, BitVec.ofNat 32 pre.length⟩ := by
  have hfirst := findTokens_error p (resolveLid s.lang) 0 pre post w hpre hw
  rw [Nat.zero_add] at hfirst
  rw [searchIndices, checkWordlist_of_width hwidth, htokens, ← hfirst]
  exact if_neg (by simpa using hlen)

theorem searchIndices_of_wrong_width {p : Platform} {s : State} (h : (p.romBits (resolveLid s.lang)).toNat ≠ 11) :
    searchIndices p s = .error ⟨.invalidWordlist, zext32 (p.romBits (resolveLid s.lang))⟩ := by
  rw [searchIndices, checkWordlist_of_wrong_width h]

/-! ### DECODE and CHECK before their request -/

section
variable {p : Platform} {s : State} {r : Raise}

theorem decodeIndices_of_searchIndices_error (h : searchIndices p s = .error r) : decodeIndices p s = .error r := by
  rw [decodeIndices, h]

theorem decodeRequest_of_decodeIndices_error (h : decodeIndices p s = .error r) : decodeRequest p s = none := by
  rw [decodeRequest, h]

theorem decodeBody_of_decodeIndices_error (h : decodeIndices p s = .error r) : decodeBody p s = .error r := by
  rw [decodeBody, h]

/-- CHECK turns a failure of DECODE into VALID = 0 (43_codec.md R166). -/
theorem checkBody_of_decodeBody_error (h : decodeBody p s = .error r) :
    checkBody p s = .ok { valid := some false } := by
  rw [checkBody, h]
  rfl

/-- An error of the search ends SEARCH and DECODE alike, with no request, and makes CHECK answer VALID = 0
(40_wordlist_rom.md R118, 43_codec.md R163, R166). -/
theorem execOn_of_searchIndices_error (hidle : s.phase = .idle) (h : searchIndices p s = .error r) {i : Instr}
    (hi : i ∈ [.search, .decode]) :
    (∃ t, execOn p i s = .next t ∧ t.shaReq = none ∧ engineStep p t = failed s i r) ∧
      ∃ t, execOn p .check s = .next t ∧ t.shaReq = none ∧ engineStep p t = completed s 0x03 none := by
  have hreq : decodeRequest p s = none :=
    decodeRequest_of_decodeIndices_error (decodeIndices_of_searchIndices_error h)
  have hbody : decodeBody p s = .error r := decodeBody_of_searchIndices_error h
  simp only [List.mem_cons, List.not_mem_nil, or_false] at hi
  constructor
  · rcases hi with rfl | rfl
    · exact execOn_of_body_error_without_request hidle rfl (searchBody_of_searchIndices_error h) rfl
    · exact execOn_of_body_error_without_request hidle rfl hbody hreq
  · obtain ⟨t, ht, hsha, hstep⟩ := execOn_of_body_ok hidle (p := p) (i := .check) rfl
      (checkBody_of_decodeBody_error hbody)
    exact ⟨t, ht, hsha.trans hreq, hstep (.inl hreq)⟩

end

/-- Settles O27: both are errors of the search. -/
theorem lengthAndWordErrors : Obligations.LengthAndWordErrors := by
  intro s i hi hidle
  simp only [exec_eq_execOn]
  exact ⟨fun hlen => execOn_of_searchIndices_error hidle (searchIndices_of_long (platform_width s) hlen) hi,
    fun pre post w hlen htokens hpre hw =>
      execOn_of_searchIndices_error hidle (searchIndices_of_unknown (platform_width s) hlen htokens hpre hw) hi⟩

theorem lookupBody_of_wrong_width {p : Platform} {s : State} (h : (p.romBits (resolveLid s.lang)).toNat ≠ 11) :
    lookupBody p s = .error ⟨.invalidWordlist, zext32 (p.romBits (resolveLid s.lang))⟩ := by
  rw [lookupBody, checkWordlist_of_wrong_width h]

theorem encodeRequest_of_wrong_width {p : Platform} {s : State} (h : (p.romBits (resolveLid s.lang)).toNat ≠ 11) :
    encodeRequest p s = none := by
  rw [encodeRequest, checkWordlist_of_wrong_width h]

/-- Settles O28: the wordlist test is the first of each of the four commands, and CHECK is DECODE's. -/
theorem invalidWordlistComesFirst : Obligations.InvalidWordlistComesFirst := by
  intro p s hidle hwidth
  have hsearch := searchIndices_of_wrong_width hwidth
  refine ⟨fun i hi => ?_, (execOn_of_searchIndices_error hidle hsearch (i := .search) (by simp)).2⟩
  simp only [List.mem_cons, List.not_mem_nil, or_false] at hi
  rcases hi with rfl | rfl | rfl | rfl
  · exact execOn_of_body_error_without_request hidle rfl (encodeBody_of_wrong_width hwidth)
      (encodeRequest_of_wrong_width hwidth)
  · exact (execOn_of_searchIndices_error hidle hsearch (by simp)).1
  · exact execOn_of_body_error_without_request hidle rfl (lookupBody_of_wrong_width hwidth) rfl
  · exact (execOn_of_searchIndices_error hidle hsearch (by simp)).1

/-! ### ENCODE -/

theorem encodeRequest_of_valid {p : Platform} {s : State} (hwidth : (p.romBits (resolveLid s.lang)).toNat = 11)
    (hlen : s.entLen.toNat ∈ [16, 20, 24, 28, 32]) : encodeRequest p s = some (entropy s) := by
  rw [encodeRequest, checkWordlist_of_width hwidth]
  exact packRequest_of_valid hlen

theorem commit_mnemonicWrites_withIndices (s : State) (str : Bytes) (xs : List Nat) :
    commit s ((mnemonicWrites str).withIndices xs) =
      { s with
        idx := idxVec xs, wordCnt := BitVec.ofNat 32 xs.length, mnem := bytesVec 1024 str,
        mnemLen := BitVec.ofNat 32 str.length } := rfl

/-- Settles O29: ENCODE commits the packed indices and the string of their words. -/
theorem encodeResult : Obligations.EncodeResult := by
  intro s hidle hsha hlen len e w xs str
  have hxs : packIndices Config.platform (entropy s) = xs := packIndices_of_valid Config.platform hlen
  have hcount : xs.length = 3 * len / 4 := by simp [xs]
  have hle : xs.length ≤ 24 := by
    have := validLen_le hlen
    omega
  have hstr : wordString Config.platform (resolveLid s.lang) xs = str := (intercalate_sep_eq_joinWords _).symm
  have hstrlen : str.length ≤ 767 := hstr ▸ length_wordString_le_767 _ _ hle
  have hbody := encodeBody_of_valid (p := Config.platform) (platform_width s) hlen
  rw [hxs, hstr] at hbody
  obtain ⟨t, ht, hreq, hstep⟩ := execOn_of_body_ok hidle (p := Config.platform) (i := .encode) rfl hbody
  refine ⟨t, idxVec xs, bytesVec 1024 str, (exec_eq_execOn _ s).trans ht,
    hreq.trans (encodeRequest_of_valid (platform_width s) hlen), ?_, ?_,
    padVec_toList_of_le 1024 0 str (by omega), hstrlen⟩
  · rw [hstep (.inr hsha), commit_mnemonicWrites_withIndices, hcount]
    rfl
  · rw [← hcount]
    exact idxVec_toList_of_le hle

/-! ### DECODE -/

theorem decodeIndices_of_valid_count {p : Platform} {s : State} {xs : List Nat} (hx : searchIndices p s = .ok xs)
    (hn : xs.length ∈ [12, 15, 18, 21, 24]) : decodeIndices p s = .ok xs := by
  rw [decodeIndices_of_searched hx, if_pos ((validCnt_iff _).2 hn)]

theorem decodeIndices_of_bad_count {p : Platform} {s : State} {xs : List Nat} (hx : searchIndices p s = .ok xs)
    (hn : xs.length ∉ [12, 15, 18, 21, 24]) :
    decodeIndices p s = .error ⟨.invalidMnemonicLength, BitVec.ofNat 32 xs.length⟩ := by
  rw [decodeIndices_of_searched hx, if_neg (mt (validCnt_iff _).1 hn)]

section
variable {p : Platform} {s : State} {xs : List Nat} (hx : decodeIndices p s = .ok xs)
include hx

theorem decodeRequest_of_ok : decodeRequest p s = some (splitEntropy xs) := by rw [decodeRequest, hx]

theorem decodeBody_of_mismatch (h : checksumOf p (splitEntropy xs) (csWidthOfWords xs.length) ≠ splitChecksum xs) :
    decodeBody p s = .error ⟨.checksumMismatch, 0⟩ := by
  rw [decodeBody, hx]
  dsimp only
  rw [verified_of_mismatch h]

theorem decodeBody_of_match (h : checksumOf p (splitEntropy xs) (csWidthOfWords xs.length) = splitChecksum xs) :
    decodeBody p s = .ok ((entropyWrites (splitEntropy xs)).withIndices xs) := by
  have hverified : verified p xs = .ok (splitEntropy xs) := if_pos h
  rw [decodeBody, hx]
  dsimp only
  rw [hverified]
  rfl

end

theorem commit_entropyWrites_withIndices (s : State) (e : Bytes) (xs : List Nat) :
    commit s ((entropyWrites e).withIndices xs) =
      { s with
        idx := idxVec xs, wordCnt := BitVec.ofNat 32 xs.length, ent := bytesVec 32 e,
        entLen := BitVec.ofNat 32 e.length } := rfl

/-- Settles O30: the count is tested, then the digest of the entropy part decides. -/
theorem decodeResult : Obligations.DecodeResult := by
  intro p s xs hidle hwidth hlen hfound n e
  have hx : searchIndices p s = .ok xs := searchIndices_of_found hwidth hlen hfound
  refine ⟨_, execOn_of_idle hidle p .decode, ?_, fun hn => ?_, fun hn => ?_⟩
  · rintro rfl
    exact (exec_eq_execOn .decode s).trans (execOn_of_idle hidle _ _)
  · have herr := decodeIndices_of_bad_count hx hn
    have hreq : decodeRequest p s = none := decodeRequest_of_decodeIndices_error herr
    exact ⟨hreq, engineStep_accept_fail (.inl hreq) p .decode _
      (congrArg Pend.ofBody (decodeBody_of_decodeIndices_error herr))⟩
  · have hok := decodeIndices_of_valid_count hx hn
    have he : e.length = 4 * n / 3 := length_splitEntropy xs
    have hle : e.length ≤ 32 := validLen_le (length_splitEntropy_mem hn)
    refine ⟨decodeRequest_of_ok hok, fun hsha hcs => ?_, fun hsha hcs => ⟨idxVec xs, bytesVec 32 e, ?_, ?_, ?_⟩⟩
    · exact engineStep_accept_fail (.inr hsha) p .decode _ (congrArg Pend.ofBody (decodeBody_of_mismatch hok hcs))
    · refine (engineStep_accept_ok (.inr hsha) p .decode _
        (congrArg Pend.ofBody (decodeBody_of_match hok hcs))).trans ?_
      rw [commit_entropyWrites_withIndices, ← he]
      rfl
    · exact idxVec_toList_of_le (validCnt_le hn)
    · rw [← he]
      exact padVec_toList_of_le 32 0 e hle

/-! ### CLEAR and the illegal word -/

/-- Settles O32: CLEAR commits zeros to every buffer and length register. -/
theorem clearResult : Obligations.ClearResult := by
  intro s hidle
  obtain ⟨t, ht, -, hstep⟩ := execOn_of_body_ok hidle (p := Config.platform) (i := .clear) (body := clearBody) rfl rfl
  exact ⟨t, (exec_eq_execOn _ s).trans ht, hstep (.inl rfl)⟩

/-- Settles O11: an illegal word has no outputs to zero. -/
theorem illegalWordFails : Obligations.IllegalWordFails := by
  intro s rest v hidle hv hin
  obtain ⟨e, he⟩ := (decode_eq_error_iff v).2 hv
  have hstep : step s = .next (accept { s with inputs := rest } v { pend := .fail ⟨.illegalCommand, v⟩ }) := by
    rw [step_eq_stepOn, stepOn_illegal hin he, execIllegal, issue_of_idle (s := { s with inputs := rest }) hidle]
    rfl
  have hout : zeroOutputsOf v = {} := zeroOutputsOf_of_illegal (by rw [commandOf, he]; rfl)
  refine ⟨_, hstep, rfl, rfl, rfl, rfl, rfl, rfl, rfl, ⟨rfl, rfl, rfl, rfl, rfl, rfl, rfl, rfl, rfl, rfl⟩, ?_⟩
  rw [engineStep_of_fail (r := ⟨.illegalCommand, v⟩) rfl rfl rfl, completeFail, accept_cmdw, hout]
  rfl

/-! ### What an outcome depends on -/

section
variable {s s' : State}

theorem packResult_congr (p : Platform) (hlen : s.entLen = s'.entLen) (hent : entropy s = entropy s') :
    packResult p s = packResult p s' := by rw [packResult, packResult, hlen, hent]

theorem packRequest_congr (hlen : s.entLen = s'.entLen) (hent : entropy s = entropy s') :
    packRequest s = packRequest s' := by rw [packRequest, packRequest, hlen, hent]

theorem searchIndices_congr (p : Platform) (hlang : s.lang = s'.lang) (hlen : s.mnemLen = s'.mnemLen)
    (hmnem : mnemonic s = mnemonic s') : searchIndices p s = searchIndices p s' := by
  rw [searchIndices, searchIndices, checkWordlist_congr p hlang, hlen, hmnem]

theorem decodeIndices_congr (p : Platform) (h : searchIndices p s = searchIndices p s') :
    decodeIndices p s = decodeIndices p s' := by rw [decodeIndices, decodeIndices, h]

theorem decodeBody_congr (p : Platform) (h : decodeIndices p s = decodeIndices p s') :
    decodeBody p s = decodeBody p s' := by rw [decodeBody, decodeBody, h]

theorem decodeRequest_congr (p : Platform) (h : decodeIndices p s = decodeIndices p s') :
    decodeRequest p s = decodeRequest p s' := by rw [decodeRequest, decodeRequest, h]

theorem unpackIndices_congr (hcnt : s.wordCnt = s'.wordCnt) (hidx : indices s = indices s') :
    unpackIndices s = unpackIndices s' := by rw [unpackIndices, unpackIndices, hcnt, hidx]

theorem lookupIndices_congr (hcnt : s.wordCnt = s'.wordCnt) (hidx : indices s = indices s') :
    lookupIndices s = lookupIndices s' := by rw [lookupIndices, lookupIndices, hcnt, hidx]

theorem deriveError_congr (hmnem : s.mnemLen = s'.mnemLen) (hpass : s.passLen = s'.passLen) :
    deriveError s = deriveError s' := by rw [deriveError, deriveError, hmnem, hpass]

/-- The outcome and the digest request of a command are functions of its inputs (10_state.md R53). -/
theorem launchOf_congr (p : Platform) {i : Instr} (h : SameInputs s s' i) :
    (launchOf p i s).pend = (launchOf p i s').pend ∧ (launchOf p i s).shaReq = (launchOf p i s').shaReq := by
  cases i with
  | encode =>
    obtain ⟨hlang, hlen, hent⟩ := h
    have hwordlist := checkWordlist_congr p hlang
    simp only [launchOf, encodeBody, encodeRequest, hwordlist, packResult_congr p hlen hent,
      packRequest_congr hlen hent, and_self]
  | decode | check =>
    obtain ⟨hlang, hlen, hmnem⟩ := h
    have hx := decodeIndices_congr p (searchIndices_congr p hlang hlen hmnem)
    simp only [launchOf, checkBody, decodeBody_congr p hx, decodeRequest_congr p hx, and_self]
  | derive =>
    obtain ⟨hmnemLen, -, hpassLen, -⟩ := h
    simp only [launchOf, deriveLaunch, deriveError_congr hmnemLen hpassLen]
    cases deriveError s' <;> exact ⟨rfl, rfl⟩
  | pack =>
    obtain ⟨hlen, hent⟩ := h
    simp only [launchOf, packBody, packResult_congr p hlen hent, packRequest_congr hlen hent, and_self]
  | unpack =>
    obtain ⟨hcnt, hidx⟩ := h
    simp only [launchOf, unpackBody, unpackRequest, unpackIndices_congr hcnt hidx, and_self]
  | lookup =>
    obtain ⟨hlang, hcnt, hidx⟩ := h
    simp only [launchOf, lookupBody, checkWordlist_congr p hlang, lookupIndices_congr hcnt hidx, and_self]
  | search =>
    obtain ⟨hlang, hlen, hmnem⟩ := h
    simp only [launchOf, searchBody, searchIndices_congr p hlang hlen hmnem, and_self]
  | clear => exact ⟨rfl, rfl⟩

end

/-- Settles O43: PEND and the request are those of the launch. -/
theorem outcomeDependsOnInputsOnly : Obligations.OutcomeDependsOnInputsOnly := by
  intro p i s s' hidle hidle' hsame
  obtain ⟨hpend, hreq⟩ := launchOf_congr p hsame
  exact ⟨_, _, execOn_of_idle hidle p i, execOn_of_idle hidle' p i, hpend, hreq⟩

end Sys2Proof.Machine
end

section
/-! PROOFS. The results of DERIVE, and the end of every command (44_seed.md R183, R184, R187, 10_state.md R51, R52,
70_reset_and_hazards.md R250). -/

namespace Sys2Proof.Machine

/-! ### The length tests -/

/-- A DERIVE that fails a length test zeroes SEED and needs no unit (44_seed.md R183). -/
theorem exec_derive_of_error {s : State} (hidle : s.phase = .idle) {r : Raise} (h : deriveError s = some r) :
    ∃ t, exec .derive s = .next t ∧
      engineStep Config.platform t = { completed s 0x04 (some r) with seed := Vector.replicate 64 0 } := by
  have hlaunch : launchOf Config.platform .derive s = { pend := .fail r } := by simp [launchOf, deriveLaunch, h]
  refine ⟨_, (exec_eq_execOn _ s).trans (execOn_of_idle hidle _ _), ?_⟩
  rw [hlaunch]
  exact engineStep_accept_fail (.inl rfl) _ .derive r rfl

/-- Settles O34: MNEM_LEN is tested before PASS_LEN. -/
theorem deriveBadLength : Obligations.DeriveBadLength := by
  intro s hidle
  refine ⟨fun hmnem => exec_derive_of_error hidle (if_pos hmnem), fun hmnem hpass => exec_derive_of_error hidle ?_⟩
  exact (if_neg (by simpa using hmnem)).trans (if_pos hpass)

/-! ### Iterate steps -/

/-- Settles O35: the turn is the iterate step, whose message is the first one or U. -/
theorem iterateStep : Obligations.IterateStep := by
  intro p s hbusy hpend hiter hhmac key m1 answer
  have hanswer : p.hmac512 (hmacRequest s).1 (hmacRequest s).2 = answer := by
    simp only [hmacRequest, answer]
    split_ifs <;> rfl
  refine ⟨xorVec s.t answer, s.iter + 1, ?_, iterate_iter_toNat p hiter, xorVec_getElem _ _⟩
  rw [engineStep_of_iterate ((iterateEnabled_iff s).2 ⟨hbusy, hpend, hiter, hhmac⟩), iterate, hanswer]

/-- While a DERIVE has calls to make every turn is an iterate step, which shows nothing (44_seed.md R187). -/
theorem engineSteps_of_calls_left (p : Platform) {s : State} {k : Nat} (hbusy : s.phase = .busy)
    (hpend : s.pend = .derive) (hhmac : s.hmacUp = true) (hk : s.iter.toNat + k ≤ 2048) :
    (engineSteps p k s).phase = .busy ∧ (engineSteps p k s).pend = .derive ∧ SameData (engineSteps p k s) s ∧
      (engineSteps p k s).iter.toNat = s.iter.toNat + k := by
  induction k generalizing s with
  | zero => exact ⟨hbusy, hpend, sameData_refl s, rfl⟩
  | succ k ih =>
    have hiter : s.iter.toNat < 2048 := by omega
    have hnext := iterate_iter_toNat p hiter
    rw [engineSteps, engineStep_of_iterate ((iterateEnabled_iff s).2 ⟨hbusy, hpend, hiter, hhmac⟩)]
    obtain ⟨hbusy', hpend', hdata, hcount⟩ := ih (s := iterate p s) hbusy hpend hhmac (by omega)
    obtain ⟨hent, hidx, hseed, hpass, hmnem, hentLen, hwordCnt, hmnemLen, hpassLen, hlang⟩ := hdata
    exact ⟨hbusy', hpend', ⟨hent, hidx, hseed, hpass, hmnem, hentLen, hwordCnt, hmnemLen, hpassLen, hlang⟩, by omega⟩

/-- Settles O36: before the last call every turn is an iterate step, and while BUSY SEED reads 0. -/
theorem noEarlySeed : Obligations.NoEarlySeed := by
  intro p s k hbusy hpend hhmac hk
  obtain ⟨hbusy', hpend', hdata, hcount⟩ := engineSteps_of_calls_left p hbusy hpend hhmac hk
  exact ⟨hbusy', hpend', hdata, hcount, fun _ => readAt_seed_of_busy hbusy' p⟩

/-! ### The seed -/

/-- Byte `b` of the exclusive or of the first `k` answers (44_seed.md R183). -/
theorem chainT_getElem (p : Platform) (key msg : Bytes) (k b : Nat) (h : b < 64) :
    (chainT p key msg k)[b] = (List.range k).foldl (fun acc i => acc ^^^ (chainU p key msg i)[b]) 0 := by
  induction k with
  | zero => simp [chainT, zeroSeed]
  | succ k ih =>
    rw [chainT, xorVec_getElem _ _ _ h, ih, List.range_succ, List.foldl_append, List.foldl_cons, List.foldl_nil]

/-- Settles O33: the answers are the chain of `chainU`, and the seed is `chainT` of all of them. -/
theorem deriveResult : Obligations.DeriveResult := by
  intro s hidle hhmac hmnemLen hpassLen key m1
  have hrun : deriveError s = none := (deriveError_eq_none_iff s).2 ⟨hmnemLen, hpassLen⟩
  refine ⟨midDerive Config.platform s 0, fun i => chainU Config.platform key m1 (i - 1), derivedSeed Config.platform s,
    (exec_eq_execOn _ s).trans (execOn_derive_of_idle hidle hrun _), rfl, fun i hi _ => ?_,
    chainT_getElem Config.platform key m1 2048, engineSteps_derive hrun hhmac _⟩
  obtain ⟨j, rfl⟩ := Nat.exists_eq_add_of_le' hi
  rfl

/-! ### Every command ends -/

/-- The outcome of every command but a DERIVE that runs is there at accept (10_state.md R50). -/
theorem launchOf_outcome_of_not_running {p : Platform} {i : Instr} {s : State}
    (h : ¬ (i = .derive ∧ deriveError s = none)) :
    (∃ w, (launchOf p i s).pend = .ok w) ∨ ∃ r, (launchOf p i s).pend = .fail r := by
  cases hpend : (launchOf p i s).pend with
  | none => exact absurd hpend (launchOf_pend_ne_none p i s)
  | ok w => exact .inl ⟨w, rfl⟩
  | fail r => exact .inr ⟨r, rfl⟩
  | derive => exact absurd (launchOf_pend_eq_derive hpend) h

/-- One turn ends every command but a DERIVE that runs, once its answer is in. -/
theorem engineStep_accept_of_not_running {p : Platform} {i : Instr} {s : State}
    (h : ¬ (i = .derive ∧ deriveError s = none)) (hsha : (launchOf p i s).shaReq = none ∨ s.shaUp = true) :
    ∃ r w, engineStep p (accept (acceptBase i s) (encode i) (launchOf p i s)) =
      commit (completed s (opcode i) r) w := by
  rcases launchOf_outcome_of_not_running (p := p) h with ⟨w, hw⟩ | ⟨r, hr⟩
  · exact ⟨none, w, engineStep_accept_ok hsha p i w hw⟩
  · exact ⟨some r, zeroOutputs i, engineStep_accept_fail hsha p i r hr⟩

theorem hiddenZero_commit_completed (s : State) (op : Byte) (r : Option Raise) (w : Writes) :
    HiddenZero (commit (completed s op r) w) := ⟨rfl, rfl, rfl, rfl, rfl, rfl⟩

/-- Settles O37: a DERIVE that runs makes its 2048 calls and completes; every other command completes at once. -/
theorem everyCommandEnds : Obligations.EveryCommandEnds := by
  intro i s hidle runs k
  by_cases hruns : runs
  · obtain ⟨rfl, hmnemLen, hpassLen⟩ := hruns
    have hrun : deriveError s = none := (deriveError_eq_none_iff s).2 ⟨hmnemLen, hpassLen⟩
    have hk : k = 2049 := if_pos ⟨rfl, hmnemLen, hpassLen⟩
    refine ⟨_, (exec_eq_execOn _ s).trans (execOn_derive_of_idle hidle hrun _), fun _ hup => ?_⟩
    have hhmac : s.hmacUp = true := hup ⟨rfl, hmnemLen, hpassLen⟩
    rw [hk, engineSteps_derive hrun hhmac]
    refine ⟨rfl, rfl, rfl, ⟨rfl, rfl, rfl, rfl, rfl, rfl⟩, fun j hj => ?_⟩
    have hcalls := midDerive_iter_toNat Config.platform s (Nat.zero_le 2048)
    exact (engineSteps_of_calls_left _ rfl (midDerive_pend hrun _ 0) hhmac (by omega)).1
  · have hk : k = 1 := if_neg hruns
    have hnot : ¬ (i = .derive ∧ deriveError s = none) := by
      rwa [deriveError_eq_none_iff]
    refine ⟨_, (exec_eq_execOn _ s).trans (execOn_of_idle hidle _ _), fun hsha _ => ?_⟩
    obtain ⟨r, w, hend⟩ := engineStep_accept_of_not_running hnot hsha
    rw [hk, engineSteps, engineSteps, hend]
    refine ⟨rfl, rfl, rfl, hiddenZero_commit_completed _ _ _ _, fun j hj => ?_⟩
    obtain rfl : j = 0 := by omega
    rfl

end Sys2Proof.Machine
end

section
/-! PROOFS. The words of the opcode map and some that are none (30_encoding.md R91, R94). -/

namespace Sys2Proof

/-- Settles O1: each of the fourteen words is decoded. -/
theorem opcodeWordsDecode : Obligations.OpcodeWordsDecode := by
  unfold Obligations.OpcodeWordsDecode
  decide

end Sys2Proof
end
